-- ==== Sys2Proof/Word.lean ====
section
/-! DEFINITION. The byte, and the fixed 255-byte frame buffer type of the block. -/

namespace Sys2Proof

/-- A byte, an unsigned integer 0 to 255 (00_scope.md R11). -/
abbrev Byte := BitVec 8

/-- A frame buffer, offsets 0 to 254 (10_state.md R23 and R25). -/
abbrev Buf := Vector Byte 255

end Sys2Proof
end

