-- ==== Sys2Proof/Config.lean ====
section
/-! DEFINITION. The constants of 00_scope.md R8 and R9, the parameters of R10, and the free values: opaque constants
that stand for what the spec leaves unspecified, so that no proof can see a value of theirs. -/

namespace Sys2Proof.Config

/-- Start-of-frame byte (R8). -/
def sof : Byte := 0x01
/-- The low address byte of every frame sent (R8). -/
def addrLo : Byte := 0x00
/-- The high address byte of every frame sent (R8). -/
def addrHi : Byte := 0x00
/-- complement = checksum XOR `csumInv` (R8). -/
def csumInv : Byte := 0xFF
/-- Inventory payload byte 0 (R8). -/
def cfgByte : Byte := 0x11
/-- Inventory payload byte 1 (R8). -/
def slotFlags : Byte := 0x07
/-- Inventory payload byte 2 (R8). -/
def isoCmd : Byte := 0x01
/-- Time slots per round (R8). -/
def nSlots : Nat := 16
/-- Bits a mask grows per collision (R8). -/
def grow : Nat := 4
/-- Longest mask, in bits (R8). -/
def maskMax : Nat := 64
/-- Bytes of a tag block (R8). -/
def tagBlock : Nat := 10
/-- Bytes before the payload (R9). -/
def hdrLen : Nat := 6
/-- Bytes after the payload (R9). -/
def trailerLen : Nat := 2
/-- Frame bytes that are not payload (R9). -/
def overhead : Nat := 8
/-- Longest payload (R9). -/
def maxPayload : Nat := 247
/-- Shortest frame (R9). -/
def minFrame : Nat := 8
/-- Bytes of the longest mask (R9). -/
def maskBytesMax : Nat := 8
/-- Capacity of the MaskStack (R10, D11). -/
def stackDepth : Nat := 256
/-- Greatest value of TAGCNT (R10, D12). -/
def tagMax : Nat := 2 ^ 32 - 1

/-- The parameters an implementation fixes for the life of the block (R10, 10_state.md R41). -/
structure Params where
  /-- Flags byte of every frame sent, OPEN (D5). -/
  txFlags : Byte
  /-- Command id of an inventory request, OPEN (D6). -/
  invCmdId : Byte
  /-- Length byte of an ISO error frame, default 9 (D7). -/
  errFrameLen : Byte
  /-- Frame offset of the ISO error code, default 6 (D7). -/
  errCodeOff : Fin 255
deriving DecidableEq, Repr

/-- The ranges R10 gives the two overridable parameters. -/
def Params.ok (p : Params) : Bool :=
  decide (9 ≤ p.errFrameLen.toNat) && decide (p.errFrameLen.toNat ≤ 11) &&
    decide (6 ≤ p.errCodeOff.val) && decide (p.errCodeOff.val + 3 ≤ p.errFrameLen.toNat)

/-- TX_FLAGS of the machine at reset: OPEN, no value (D5, log 3). -/
opaque txFlags : Byte
/-- INV_CMD_ID of the machine at reset: OPEN, no value (D6, log 3). -/
opaque invCmdId : Byte

/-- The parameters of the machine at reset: the two OPEN ones opaque, the two decided ones at their defaults. -/
def params : Params := { txFlags := txFlags, invCmdId := invCmdId, errFrameLen := 9, errCodeOff := 6 }

/-- Free bytes: the value at an index of the n-th draw (logs 7 and 8). -/
opaque freeByte (draw index : Nat) : Byte
/-- Free 7-bit values, for CUR_LEN after a hardware reset (log 7). -/
opaque freeLen (draw : Nat) : BitVec 7
/-- Free 16-bit values, for VALID (index 0) and COLL (index 1) after a hardware reset (log 7). -/
opaque freeFlags (draw index : Nat) : BitVec 16

end Sys2Proof.Config
end

