-- ==== Sys2Proof/Syntax.lean ====
section
/-! DEFINITION. The 24 operations of 30_encoding.md R100, one constructor a row, with the operands its "operands"
column gives; and an operation request, which is an operation word with its operand beside it (log 4). -/

namespace Sys2Proof

/-- A mask value (L, B): a bit length and a byte sequence (10_state.md R24). An operand offered from outside may be
ill-formed (30_encoding.md R106), so the two parts are free of each other here. -/
structure Mask where
  len : Nat
  bytes : List Byte
deriving DecidableEq, Repr

/-- The operations of R100, in the table's order. -/
inductive Instr where
  | nop
  | start
  | cancel
  | recv
  | isochk
  | extract
  | collide
  | fatalchk
  | next
  | sendreq
  | csum (s : List Byte)
  | verify (f : List Byte)
  | fields (f : List Byte)
  | encode (cmd : Byte) (payload : List Byte)
  | decode
  | clear
  | push (m : Mask)
  | pop
  | buildreq (m : Mask)
  | derive (m : Mask) (slot : Nat)
  | tagparse (blk : List Byte)
  | isomap (code : Byte)
  | vscan (v : BitVec 16)
  | cscan (c : BitVec 16)
deriving DecidableEq, Repr

/-- The operand that goes with an operation word, by the kinds of R100's "operands" column. -/
inductive Operand where
  | none
  | bytes (s : List Byte)
  | command (cmd : Byte) (payload : List Byte)
  | mask (m : Mask)
  | maskSlot (m : Mask) (slot : Nat)
  | byte (b : Byte)
  | flags (v : BitVec 16)
deriving DecidableEq, Repr

/-- An operation request: the 8-bit operation word OPW (R95) and its operand. -/
structure Request where
  opw : BitVec 8
  operand : Operand
deriving DecidableEq, Repr

end Sys2Proof
end

