-- ==== Sys2Proof/Machine/Operands.lean ====
section
/-! DEFINITION. The operand forms: the domains of mask and byte-sequence operands, and the byte count of a mask. -/

namespace Sys2Proof

/-- `ceil8(L)`, the byte count of an L-bit mask (00_scope.md R12). -/
def ceil8 (n : Nat) : Nat := (n + 7) / 8

/-- L is one of 0, 4, ..., 64 and the byte count is `ceil8(L)` (10_state.md R24; the test of BUILDREQ, R161). -/
def Mask.shaped (m : Mask) : Bool :=
  decide (m.len % Config.grow = 0) && decide (m.len ≤ Config.maskMax) && decide (m.bytes.length = ceil8 m.len)

/-- For L mod 8 = 4 the high nibble of the last byte is zero (10_state.md R24). -/
def Mask.canonical (m : Mask) : Bool :=
  decide (m.len % 8 ≠ 4) || decide (m.bytes.getLastD 0 >>> 4 = 0)

/-- A mask PUSH accepts (R141): shaped and canonical. -/
def Mask.wellFormed (m : Mask) : Bool := m.shaped && m.canonical

/-- The operands DERIVE accepts (R162): a well-formed mask of at most 60 bits and a slot 0 to 15. -/
def deriveDomain (m : Mask) (slot : Nat) : Bool :=
  m.wellFormed && decide (m.len + Config.grow ≤ Config.maskMax) && decide (slot < Config.nSlots)

/-- The byte sequences VERIFY is defined on (R121). -/
def verifyDomain (f : List Byte) : Bool := decide (2 ≤ f.length)

/-- The byte sequences FIELDS is defined on (R122). -/
def fieldsDomain (f : List Byte) : Bool := decide (Config.minFrame ≤ f.length) && decide (f.length ≤ 255)

/-- The payloads ENCODE accepts (R123). -/
def encodeDomain (payload : List Byte) : Bool := decide (payload.length ≤ Config.maxPayload)

/-- The byte sequences TAGPARSE is defined on (R163). -/
def tagDomain (blk : List Byte) : Bool := decide (blk.length = Config.tagBlock)

end Sys2Proof
end

