-- ==== Sys2Proof/Machine/State.lean ====
section
/-! DEFINITION. The architectural state (10_state.md), the environment of the block as plain data (logs 1 and 2), the
outcomes that stop the model, and the state after hardware reset (R42). -/

namespace Sys2Proof.Machine

/-- The values of ST (10_state.md R21; nine values, 30_encoding.md R109). -/
inductive St where
  | idle | roundSent | roundReceived | extractTags | processCollisions | pushMasks | nextRound | done | fatal
deriving DecidableEq, Repr

/-- The values of ERR (10_state.md R30; nine values, 30_encoding.md R109). -/
inductive Err where
  | none | transportTimeout | checksumMismatch | isoError | clonedOrFaultError
  | malformedFrame | malformedResponse | cancelled | resultOverflow
deriving DecidableEq, Repr

/-- The fixed 71-bit form of a mask, in CUR and in a stack entry (30_encoding.md R93). -/
structure MaskReg where
  len : BitVec 7
  bytes : Vector Byte 8
deriving DecidableEq, Repr

/-- A TagRecord (30_encoding.md R94). -/
structure TagRecord where
  uid : BitVec 64
  dsfid : Byte
deriving DecidableEq, Repr

/-- The field registers F_SOF, F_LEN, ..., F_CSUMN (10_state.md R26). -/
structure FieldRegs where
  sof : Byte
  len : Byte
  addrLo : Byte
  addrHi : Byte
  flags : Byte
  cmd : Byte
  plen : Byte
  csum : Byte
  csumn : Byte
deriving DecidableEq, Repr

/-- The field record FIELDS returns (40_framecodec.md R122): the field registers' contents and the payload. -/
structure FieldRecord where
  regs : FieldRegs
  payload : List Byte
deriving DecidableEq, Repr

/-- What an operation reports to its caller (log 5): the results of R100's "operands -> results" column, a refusal
(R186), or the error it raised. -/
inductive Reply where
  /-- no result -/
  | none
  | refused
  | raised (e : Err)
  | checksum (c n : Byte)
  | verified (ok : Bool)
  | fields (r : FieldRecord)
  | frame (f : List Byte)
  | mask (m : Mask)
  | payload (p : List Byte)
  | tag (t : TagRecord)
  | meaning (code : BitVec 2)
  | slots (l : List Nat)
deriving DecidableEq, Repr

/-- One call of the Transport (20_memory.md R61 and R62, log 17). -/
inductive LinkEvent where
  /-- a write of one whole frame -/
  | write (frame : List Byte)
  /-- a read that asked for a number of bytes and what it returned -/
  | read (asked : Nat) (got : List Byte)
deriving DecidableEq, Repr

/-- Who acts next (log 1). -/
inductive Input where
  /-- the host drives HCMD with a 2-bit code (30_encoding.md R96) -/
  | host (hcmd : BitVec 2)
  /-- nobody asks anything: the sequencer's turn (42_inventory_engine.md R150) -/
  | sequencer
  /-- a test bench drives one unit alone (60_exceptions.md R186) -/
  | bench (r : Request)
  /-- hardware reset is asserted and released (70_reset_and_hazards.md R210) -/
  | hwReset
deriving DecidableEq, Repr

/-- The state of the block, of its channels, and of the environment that acts on it. -/
structure State where
  /-- ST, the sequencer state register (R21) -/
  st : St
  /-- CUR_LEN and CUR_BYTES, the current mask (R22) -/
  cur : MaskReg
  /-- TXB, the transmit frame buffer (R23) -/
  txb : Buf
  /-- TXLEN (R23) -/
  txlen : Byte
  /-- RXB, the receive frame buffer (R25) -/
  rxb : Buf
  /-- RXLEN (R25) -/
  rxlen : Byte
  /-- the field registers F_SOF to F_CSUMN (R26) -/
  f : FieldRegs
  /-- VALID, the valid-data field (R27) -/
  valid : BitVec 16
  /-- COLL, the collision field (R27) -/
  coll : BitVec 16
  /-- CANCEL_REQ (R29) -/
  cancelReq : Bool
  /-- ERR (R30) -/
  err : Err
  /-- ISOCODE (R31) -/
  isocode : Byte
  /-- STK[0..SP-1], oldest first; SP is its length (R33, R34, log 9) -/
  stk : List MaskReg
  /-- ROUNDS (R35) -/
  rounds : BitVec 32
  /-- TAGCNT (R36) -/
  tagcnt : BitVec 32
  /-- TAGS, in discovery order (R37) -/
  tags : List TagRecord
  /-- the TAG channel: every record emitted, oldest first (R38, log 15) -/
  tagOut : List TagRecord
  /-- the calls of the Transport, oldest first (R61, R74, log 17) -/
  link : List LinkEvent
  /-- the bytes the Transport will deliver (R62, R40, log 2) -/
  rx : List Byte
  /-- for each future read, how many bytes arrive before its timeout (R62, R40, log 2) -/
  rxLimits : List Nat
  /-- who acts in the coming steps; where it ends the sequencer acts (log 1) -/
  inputs : List Input
  /-- the last report (log 5) -/
  reply : Reply
  /-- the parameters, which no operation writes (00_scope.md R10, log 3) -/
  params : Config.Params
  /-- how often free values were drawn; the model's own (log 18) -/
  draws : Nat
deriving DecidableEq, Repr

/-- What stops the model in a state no session reaches. -/
inductive Fault where
  /-- Raised by SENDREQ, START, COLLIDE and NEXT when a unit they invoke refuses its operand or its state: a CUR or a
  stack entry that is no well-formed mask, a mask of 64 bits to derive from, a full stack, an empty stack. 60_exceptions.md
  R186 derives that this cannot occur inside a session and gives no effect (log 10). Safe: the model stops. -/
  | unitRefusedInside
deriving DecidableEq, Repr

/-- Why the model refuses to go on. -/
inductive Refusal where
  /-- An operation without a meaning in exec. No arm answers so. Safe. -/
  | notModelled (mnemonic : String)
  /-- Raised by a step on a bench request whose word is not in R100: "name no operation; nothing can issue one"
  (30_encoding.md R109, log 14). Safe. -/
  | noOperation (opw : BitVec 8)
  /-- Raised by a step on a bench request whose operand is of another kind than its row's (log 14). Safe. -/
  | wrongOperand (opw : BitVec 8)
deriving DecidableEq, Repr

/-- The empty mask (0, []) in register form (42_inventory_engine.md R152). -/
def MaskReg.empty : MaskReg := ⟨0, #v[0, 0, 0, 0, 0, 0, 0, 0]⟩

/-- The state after hardware reset (R42). Registers R42 leaves unspecified hold zero (log 6); the environment is silent
(logs 1 and 2). -/
def State.reset : State where
  st := .idle
  cur := .empty
  txb := Vector.replicate 255 0
  txlen := 0
  rxb := Vector.replicate 255 0
  rxlen := 0
  f := ⟨0, 0, 0, 0, 0, 0, 0, 0, 0⟩
  valid := 0
  coll := 0
  cancelReq := false
  err := .none
  isocode := 0
  stk := []
  rounds := 0
  tagcnt := 0
  tags := []
  tagOut := []
  link := []
  rx := []
  rxLimits := []
  inputs := []
  reply := .none
  params := Config.params
  draws := 0

end Sys2Proof.Machine
end

