-- ==== Sys2Proof/Machine/Flags.lean ====
section
/-! DEFINITION. The flags: the assembly and scans of the 16-bit flag fields, the flags that are functions of other state,
and the codes of ST, ERR and MEANING. -/

namespace Sys2Proof.Machine

/-- A 16-bit flag field from its low and its high byte (30_encoding.md R88). -/
def flagField (lo hi : Byte) : BitVec 16 := lo.zeroExtend 16 ||| (hi.zeroExtend 16 <<< 8)

/-- Number of set bits (00_scope.md R12). -/
def popcount16 (v : BitVec 16) : Nat := ((List.range 16).map fun s => (v.getLsbD s).toNat).sum

/-- The slots of the valid-data field, ascending (42_inventory_engine.md R165). -/
def vscan (v : BitVec 16) : List Nat := (List.range Config.nSlots).filter fun s => v.getLsbD s

/-- The slots of the collision field by scan position, low byte first at each (42_inventory_engine.md R166). -/
def cscan (c : BitVec 16) : List Nat :=
  (List.range 8).flatMap fun p => (if c.getLsbD p then [p] else []) ++ (if c.getLsbD (p + 8) then [p + 8] else [])

/-- The MEANING index of an ISO error code (42_inventory_engine.md R164). -/
def isoMap (code : Byte) : BitVec 2 :=
  if code = 0x01 then 0 else if code = 0x02 then 1 else if code = 0x04 then 2 else 3

/-- The meaning strings (30_encoding.md R99). -/
def meaningText (m : BitVec 2) : String :=
  if m = 0 then "Transponder not found" else if m = 1 then "Command not supported"
  else if m = 2 then "Invalid flags" else "Unknown error code"

/-- SP, the stack count (10_state.md R33). -/
def State.sp (s : State) : BitVec 9 := BitVec.ofNat 9 s.stk.length

/-- STK_EMPTY: SP == 0 (10_state.md R28). -/
def State.stkEmpty (s : State) : Bool := s.stk.isEmpty

/-- The states in which a session is running (10_state.md R28). -/
def St.busy : St → Bool
  | .roundSent | .roundReceived | .extractTags | .processCollisions | .pushMasks | .nextRound => true
  | .idle | .done | .fatal => false

/-- BUSY (10_state.md R28). -/
def State.busy (s : State) : Bool := s.st.busy

/-- MEANING, continuous from ISOCODE (10_state.md R32). -/
def State.meaning (s : State) : BitVec 2 := isoMap s.isocode

/-- The level output for Done an implementation may export (60_exceptions.md R192). -/
def State.doneOut (s : State) : Bool := decide (s.st = .done)

/-- The level output for Fatal an implementation may export (60_exceptions.md R192). -/
def State.fatalOut (s : State) : Bool := decide (s.st = .fatal)

/-- The codes of ST (30_encoding.md R97). -/
def St.code : St → BitVec 4
  | .idle => 0
  | .roundSent => 1
  | .roundReceived => 2
  | .extractTags => 3
  | .processCollisions => 4
  | .pushMasks => 5
  | .nextRound => 6
  | .done => 7
  | .fatal => 8

/-- The codes of ERR (30_encoding.md R98). -/
def Err.code : Err → BitVec 4
  | .none => 0
  | .transportTimeout => 1
  | .checksumMismatch => 2
  | .isoError => 3
  | .clonedOrFaultError => 4
  | .malformedFrame => 5
  | .malformedResponse => 6
  | .cancelled => 7
  | .resultOverflow => 8

end Sys2Proof.Machine
end

