-- ==== Sys2Proof/Machine/Ops.lean ====
section
/-! DEFINITION. The named operations over registers, buffers, streams and the stack; `refuse`; entering Fatal (`raise`)
and leaving it (the session reset of an accepted START); hardware reset. -/

namespace Sys2Proof.Machine

/-! ### Buffers and registers -/

/-- The n free bytes of a draw from an index on. -/
def freeBytes (draw : Nat) : Nat → Nat → List Byte
  | _, 0 => []
  | i, n + 1 => Config.freeByte draw i :: freeBytes draw (i + 1) n

theorem freeBytes_length (draw i n : Nat) : (freeBytes draw i n).length = n := by
  induction n generalizing i with
  | zero => rfl
  | succ n ih => simp [freeBytes, ih]

/-- A frame buffer of free bytes, indices 0 to 254 of a draw. -/
def freeBuf (draw : Nat) : Buf := ⟨Array.mk (freeBytes draw 0 255), by simp [freeBytes_length]⟩

/-- A frame buffer with a frame written at offset 0 and every later byte as before. -/
def overlay (f : List Byte) (b : Buf) : Buf :=
  ⟨Array.mk (f.take 255 ++ b.toList.drop f.length), by simp; omega⟩

/-- Field registers of free values, indices 256 to 264 of a draw. -/
def freeFields (draw : Nat) : FieldRegs :=
  { sof := Config.freeByte draw 256, len := Config.freeByte draw 257, addrLo := Config.freeByte draw 258,
    addrHi := Config.freeByte draw 259, flags := Config.freeByte draw 260, cmd := Config.freeByte draw 261,
    plen := Config.freeByte draw 262, csum := Config.freeByte draw 263, csumn := Config.freeByte draw 264 }

/-- A byte sequence in the fixed 8-byte form, unused bytes 0x00 (10_state.md R24). -/
def padBytes (b : List Byte) : Vector Byte 8 :=
  ⟨Array.mk (b.take 8 ++ List.replicate (8 - b.length) 0), by simp; omega⟩

/-- A mask value in register form (30_encoding.md R93). -/
def maskToReg (m : Mask) : MaskReg := ⟨BitVec.ofNat 7 m.len, padBytes m.bytes⟩

/-- The mask value a register holds: (LEN, BYTES[0 .. ceil8(LEN)-1]) (30_encoding.md R93). -/
def maskOfReg (r : MaskReg) : Mask := ⟨r.len.toNat, r.bytes.toList.take (ceil8 r.len.toNat)⟩

/-- CUR as a mask value. -/
def State.curMask (s : State) : Mask := maskOfReg s.cur

/-- PAYLOAD: RXB from offset 6 on, F_PLEN bytes (10_state.md R26). -/
def State.payload (s : State) : List Byte := (s.rxb.toList.drop Config.hdrLen).take s.f.plen.toNat

/-! ### Reports, refusal, errors -/

/-- Report to the caller (log 5). -/
def State.report (r : Reply) (s : State) : State := { s with reply := r }

/-- `refuse`: no effect on any state, and refusal is reported (00_scope.md R13, 60_exceptions.md R186). -/
def State.refuse (s : State) : State := s.report .refused

/-- `raise E`: ERR <- E, ST <- Fatal, nothing else (60_exceptions.md R190). -/
def State.raise (e : Err) (s : State) : State := { s with err := e, st := .fatal, reply := .raised e }

/-! ### The Transport -/

/-- `MemRead(RX, n)`: at most n bytes of the RX stream, fewer where the environment cuts the read short
(20_memory.md R62). -/
def memRead (n : Nat) (s : State) : List Byte × State :=
  let got := s.rx.take (min n (s.rxLimits.headD n))
  (got, { s with rx := s.rx.drop got.length, rxLimits := s.rxLimits.tail, link := s.link ++ [.read n got] })

/-- `MemWrite(TX, n, v)`: one call with one whole frame (20_memory.md R61). -/
def memWrite (frame : List Byte) (s : State) : State := { s with link := s.link ++ [.write frame] }

/-- The frame a Transport call wrote, if it was a write. -/
def LinkEvent.written? : LinkEvent → Option (List Byte)
  | .write frame => some frame
  | .read _ _ => none

/-- The TX stream: the frames written, oldest first. -/
def State.txFrames (s : State) : List (List Byte) := s.link.filterMap LinkEvent.written?

/-! ### The receive registers -/

/-- A failed DECODE leaves RXB, RXLEN and the field registers unspecified (10_state.md R25, log 8). -/
def State.forgetRx (s : State) : State :=
  { s with rxb := freeBuf s.draws, rxlen := Config.freeByte s.draws 255, f := freeFields s.draws, draws := s.draws + 1 }

/-- A successful DECODE stores the frame, its length and its fields; RXB beyond the frame is unspecified
(40_framecodec.md R124, 20_memory.md R63, log 8). -/
def State.latchRx (frame : List Byte) (r : FieldRegs) (s : State) : State :=
  { s with rxb := overlay frame (freeBuf s.draws), rxlen := BitVec.ofNat 8 frame.length, f := r, draws := s.draws + 1 }

/-! ### The MaskStack -/

/-- CLEAR: SP <- 0 (41_maskstack.md R140). -/
def clearStack (s : State) : State := { s with stk := [] }

/-- PUSH, or none where it is refused (41_maskstack.md R141). -/
def pushMask (m : Mask) (s : State) : Option State :=
  if Config.stackDepth ≤ s.stk.length then none
  else if m.wellFormed then some { s with stk := s.stk ++ [maskToReg m] }
  else none

/-- POP, or none where it is refused (41_maskstack.md R142). -/
def popMask (s : State) : Option (Mask × State) :=
  match s.stk.getLast? with
  | none => none
  | some r => some (maskOfReg r, { s with stk := s.stk.dropLast })

/-! ### Resets -/

/-- What START resets before it sends (42_inventory_engine.md R152, 70_reset_and_hazards.md R211). -/
def sessionReset (s : State) : State :=
  { clearStack s with
    tags := [], tagcnt := 0, err := .none, isocode := 0, cancelReq := false, rounds := 0, cur := .empty }

/-- Hardware reset in any state (70_reset_and_hazards.md R210): the "after hardware reset" column of 10_state.md R42, its
unspecified registers free (log 7); what belongs to the Transport and the environment stays. -/
def hardReset (s : State) : State :=
  { s with
    st := .idle, stk := [], tags := [], tagcnt := 0, rounds := 0, err := .none, isocode := 0, cancelReq := false
    cur := ⟨Config.freeLen s.draws, padBytes (freeBytes s.draws 265 8)⟩
    txb := ⟨Array.mk (freeBytes s.draws 273 255), by simp [freeBytes_length]⟩
    txlen := Config.freeByte s.draws 528
    rxb := freeBuf s.draws, rxlen := Config.freeByte s.draws 255, f := freeFields s.draws
    valid := Config.freeFlags s.draws 0, coll := Config.freeFlags s.draws 1
    reply := .none, draws := s.draws + 1 }

end Sys2Proof.Machine
end

