-- ==== Sys2Proof/Machine/FrameCodec.lean ====
section
/-! DEFINITION. The FrameCodec operations (40_framecodec.md): CSUM, VERIFY, FIELDS, ENCODE, DECODE. -/

namespace Sys2Proof.Machine

/-- The XOR of all bytes, 0x00 for none (00_scope.md R12). -/
def xor8 : List Byte → Byte
  | [] => 0
  | b :: t => b ^^^ xor8 t

/-- CSUM's result (R120). -/
def csumOf (s : List Byte) : Byte × Byte := (xor8 s, xor8 s ^^^ Config.csumInv)

/-- VERIFY's result on a sequence of two bytes or more (R121): both bytes of the pair are tested (90_conflicts.md C1). -/
def verifyFrame (f : List Byte) : Bool :=
  let k := f.length
  let c := xor8 (f.take (k - 2))
  (f.getD (k - 2) 0 == c) && (f.getD (k - 1) 0 == f.getD (k - 2) 0 ^^^ Config.csumInv)

/-- FIELDS' result on a sequence of 8 to 255 bytes (R122). -/
def fieldsOf (f : List Byte) : FieldRecord :=
  let k := f.length
  { regs :=
      { sof := f.getD 0 0, len := f.getD 1 0, addrLo := f.getD 2 0, addrHi := f.getD 3 0, flags := f.getD 4 0
        cmd := f.getD 5 0, plen := BitVec.ofNat 8 (k - Config.overhead), csum := f.getD (k - 2) 0, csumn := f.getD (k - 1) 0 }
    payload := (f.drop Config.hdrLen).take (k - Config.overhead) }

/-- ENCODE's frame for a flags byte, or none where it is refused (R123). -/
def encodeFrame (flags cmd : Byte) (payload : List Byte) : Option (List Byte) :=
  if encodeDomain payload then
    let h := [Config.sof, BitVec.ofNat 8 (payload.length + Config.overhead), Config.addrLo, Config.addrHi, flags, cmd] ++ payload
    let (c, n) := csumOf h
    some (h ++ [c, n])
  else none

/-- DECODE (R124): the field record, or the first error in the rule's order, and the state after the reads. -/
def receiveFrame (s : State) : Except Err FieldRecord × State :=
  let (h, s1) := memRead 2 s
  if h.length < 2 then (.error .transportTimeout, s1.forgetRx)
  else
    let len := (h.getD 1 0).toNat
    if len < Config.minFrame then (.error .malformedFrame, s1.forgetRx)
    else
      let (b, s2) := memRead (len - 2) s1
      if b.length < len - 2 then (.error .transportTimeout, s2.forgetRx)
      else
        let f := h ++ b
        if verifyFrame f then (.ok (fieldsOf f), s2.latchRx f (fieldsOf f).regs)
        else (.error .checksumMismatch, s2.forgetRx)

/-- CSUM (R120). It is total. -/
def execCsum (bs : List Byte) (s : State) : Host.Outcome State Fault Refusal :=
  .next (s.report (.checksum (csumOf bs).1 (csumOf bs).2))

/-- VERIFY (R121); outside its domain it is refused (log 12). -/
def execVerify (f : List Byte) (s : State) : Host.Outcome State Fault Refusal :=
  if verifyDomain f then .next (s.report (.verified (verifyFrame f))) else .next s.refuse

/-- FIELDS (R122); outside its domain it is refused (log 12). -/
def execFields (f : List Byte) (s : State) : Host.Outcome State Fault Refusal :=
  if fieldsDomain f then .next (s.report (.fields (fieldsOf f))) else .next s.refuse

/-- ENCODE (R123) with the flags byte TX_FLAGS. -/
def execEncode (cmd : Byte) (payload : List Byte) (s : State) : Host.Outcome State Fault Refusal :=
  match encodeFrame s.params.txFlags cmd payload with
  | some frame => .next (s.report (.frame frame))
  | none => .next s.refuse

/-- DECODE alone (R124): "the error is simply its result"; ERR and ST are RECV's to write (log 13). -/
def execDecode (s : State) : Host.Outcome State Fault Refusal :=
  match receiveFrame s with
  | (.ok r, s') => .next (s'.report (.fields r))
  | (.error e, s') => .next (s'.report (.raised e))

end Sys2Proof.Machine
end

