-- ==== Sys2Proof/Machine/Interpreter.lean ====
section
/-! DEFINITION. The interpreter functions (42_inventory_engine.md section 4): BUILDREQ, DERIVE, TAGPARSE, ISOMAP, VSCAN,
CSCAN. -/

namespace Sys2Proof.Machine

/-- BUILDREQ's payload, or none where it is refused (R161). -/
def buildRequest (m : Mask) : Option (List Byte) :=
  if m.shaped then some ([Config.cfgByte, Config.slotFlags, Config.isoCmd, BitVec.ofNat 8 m.len] ++ m.bytes) else none

/-- DERIVE's mask, or none where it is refused (R162, 90_conflicts.md C8). -/
def deriveMask (m : Mask) (slot : Nat) : Option Mask :=
  if deriveDomain m slot then
    let q := m.len / 8
    let low : Byte := BitVec.ofNat 8 slot
    if m.len % 8 = 0 then some ⟨m.len + Config.grow, m.bytes.take q ++ [low]⟩
    else some ⟨m.len + Config.grow, m.bytes.take q ++ [m.bytes.getD q 0 ||| (low <<< 4)]⟩
  else none

/-- TAGPARSE's record (R163): bytes 0 to 7 least significant first, byte 8; byte 9 is ignored. -/
def parseTag (blk : List Byte) : TagRecord :=
  let b (j : Nat) : BitVec 64 := (blk.getD j 0).zeroExtend 64
  { uid := b 0 ||| b 1 <<< 8 ||| b 2 <<< 16 ||| b 3 <<< 24 ||| b 4 <<< 32 ||| b 5 <<< 40 ||| b 6 <<< 48 ||| b 7 <<< 56
    dsfid := blk.getD 8 0 }

/-- BUILDREQ (R161). -/
def execBuildreq (m : Mask) (s : State) : Host.Outcome State Fault Refusal :=
  match buildRequest m with
  | some p => .next (s.report (.payload p))
  | none => .next s.refuse

/-- DERIVE (R162). -/
def execDerive (m : Mask) (slot : Nat) (s : State) : Host.Outcome State Fault Refusal :=
  match deriveMask m slot with
  | some m' => .next (s.report (.mask m'))
  | none => .next s.refuse

/-- TAGPARSE (R163); on other than 10 bytes it is refused (log 12). -/
def execTagparse (blk : List Byte) (s : State) : Host.Outcome State Fault Refusal :=
  if tagDomain blk then .next (s.report (.tag (parseTag blk))) else .next s.refuse

/-- ISOMAP (R164). -/
def execIsomap (code : Byte) (s : State) : Host.Outcome State Fault Refusal := .next (s.report (.meaning (isoMap code)))

/-- VSCAN (R165). -/
def execVscan (v : BitVec 16) (s : State) : Host.Outcome State Fault Refusal := .next (s.report (.slots (vscan v)))

/-- CSCAN (R166). -/
def execCscan (c : BitVec 16) (s : State) : Host.Outcome State Fault Refusal := .next (s.report (.slots (cscan c)))

end Sys2Proof.Machine
end

