-- ==== Sys2Proof/Machine/MaskStack.lean ====
section
/-! DEFINITION. The MaskStack operations (41_maskstack.md): CLEAR, PUSH, POP. -/

namespace Sys2Proof.Machine

/-- CLEAR (R140). -/
def execClear (s : State) : Host.Outcome State Fault Refusal := .next ((clearStack s).report .none)

/-- PUSH (R141). -/
def execPush (m : Mask) (s : State) : Host.Outcome State Fault Refusal :=
  match pushMask m s with
  | some s' => .next (s'.report .none)
  | none => .next s.refuse

/-- POP (R142). -/
def execPop (s : State) : Host.Outcome State Fault Refusal :=
  match popMask s with
  | some (m, s') => .next (s'.report (.mask m))
  | none => .next s.refuse

end Sys2Proof.Machine
end

