-- ==== Sys2Proof/Machine/Sequencer.lean ====
section
/-! DEFINITION. The sequencer micro-operations (42_inventory_engine.md section 3). Each is performed only in the ST that
R150 assigns it; asked for in another, it is refused (log 11). -/

namespace Sys2Proof.Machine

/-- SENDREQ for the current mask (R154), or none where a unit it invokes refuses. -/
def sendRequest (s : State) : Option State :=
  match buildRequest s.curMask with
  | none => none
  | some p =>
    match encodeFrame s.params.txFlags s.params.invCmdId p with
    | none => none
    | some f =>
      some (memWrite f { s with
        txb := overlay f s.txb, txlen := BitVec.ofNat 8 f.length, rounds := s.rounds + 1 })

/-- PUSH(DERIVE(m, slot)) for each slot of a list in order (R158), or none where one is refused. -/
def pushDerived (m : Mask) : List Nat → State → Option State
  | [], s => some s
  | slot :: rest, s =>
    match deriveMask m slot with
    | none => none
    | some d =>
      match pushMask d s with
      | none => none
      | some s' => pushDerived m rest s'

/-- The records of the first n tag blocks of a response payload (R157, 30_encoding.md R87). -/
def tagRecords (payload : List Byte) (n : Nat) : List TagRecord :=
  (List.range n).map fun i => parseTag ((payload.drop (4 + Config.tagBlock * i)).take Config.tagBlock)

/-- RECV (R155). -/
def execRecv (s : State) : Host.Outcome State Fault Refusal :=
  if s.st = .roundSent then
    match receiveFrame s with
    | (.ok _, s') => .next { s' with st := .roundReceived, reply := .none }
    | (.error e, s') => .next (s'.raise e)
  else .next s.refuse

/-- ISOCHK (R156). -/
def execIsochk (s : State) : Host.Outcome State Fault Refusal :=
  if s.st = .roundReceived then
    let code := s.rxb[s.params.errCodeOff]
    if s.f.len = s.params.errFrameLen ∧ code ≠ 0 then .next ({ s with isocode := code }.raise .isoError)
    else .next { s with st := .extractTags, reply := .none }
  else .next s.refuse

/-- EXTRACT (R157): its three tests come before any write. -/
def execExtract (s : State) : Host.Outcome State Fault Refusal :=
  if s.st = .extractTags then
    let p := s.payload
    let plen := s.f.plen.toNat
    let v := flagField (p.getD 0 0) (p.getD 1 0)
    let c := flagField (p.getD 2 0) (p.getD 3 0)
    let n := popcount16 v
    if plen < 4 then .next (s.raise .malformedResponse)
    else if plen < 4 + Config.tagBlock * n then .next (s.raise .malformedResponse)
    else if Config.tagMax < s.tagcnt.toNat + n then .next (s.raise .resultOverflow)
    else
      let recs := tagRecords p n
      .next { s with
        valid := v, coll := c, tags := s.tags ++ recs, tagcnt := s.tagcnt + BitVec.ofNat 32 n
        tagOut := s.tagOut ++ recs, st := .processCollisions, reply := .none }
  else .next s.refuse

/-- COLLIDE (R158). -/
def execCollide (s : State) : Host.Outcome State Fault Refusal :=
  if s.st = .processCollisions then
    match pushDerived s.curMask (cscan s.coll) s with
    | some s' => .next { s' with st := .pushMasks, reply := .none }
    | none => .fault .unitRefusedInside
  else .next s.refuse

/-- FATALCHK (R159). -/
def execFatalchk (s : State) : Host.Outcome State Fault Refusal :=
  if s.st = .pushMasks then
    if s.coll ≠ 0 ∧ s.cur.len.toNat + Config.grow = Config.maskMax then .next (s.raise .clonedOrFaultError)
    else if s.stkEmpty then .next { s with st := .done, reply := .none }
    else .next { s with st := .nextRound, reply := .none }
  else .next s.refuse

/-- NEXT (R160). -/
def execNext (s : State) : Host.Outcome State Fault Refusal :=
  if s.st = .nextRound then
    if s.cancelReq then .next (s.raise .cancelled)
    else
      match popMask s with
      | none => .fault .unitRefusedInside
      | some (m, s1) =>
        match sendRequest { s1 with cur := maskToReg m } with
        | none => .fault .unitRefusedInside
        | some s2 => .next { s2 with st := .roundSent, reply := .none }
  else .next s.refuse

/-- SENDREQ (R154), which START and NEXT invoke; it does not write ST. -/
def execSendreq (s : State) : Host.Outcome State Fault Refusal :=
  match sendRequest s with
  | some s' => .next (s'.report .none)
  | none => .fault .unitRefusedInside

end Sys2Proof.Machine
end

