-- ==== Sys2Proof/Machine/HostCommands.lean ====
section
/-! DEFINITION. The host commands (42_inventory_engine.md section 2): NOP, START, CANCEL. -/

namespace Sys2Proof.Machine

/-- NOP (R151): nothing, not even a report. -/
def execNop (s : State) : Host.Outcome State Fault Refusal := .next s

/-- START (R152): refused while BUSY. -/
def execStart (s : State) : Host.Outcome State Fault Refusal :=
  if s.busy then .next s.refuse
  else
    match sendRequest (sessionReset s) with
    | some s' => .next { s' with st := .roundSent, reply := .none }
    | none => .fault .unitRefusedInside

/-- CANCEL (R153). -/
def execCancel (s : State) : Host.Outcome State Fault Refusal := .next { s with cancelReq := true, reply := .none }

end Sys2Proof.Machine
end

