-- ==== Sys2Proof/Machine/Dispatch.lean ====
section
/-! DEFINITION. One arm per operation, each one direct call of its meaning. -/

namespace Sys2Proof.Machine

def exec (i : Instr) (s : State) : Host.Outcome State Fault Refusal :=
  match i with
  | .nop => Sys2Proof.Machine.execNop s
  | .start => Sys2Proof.Machine.execStart s
  | .cancel => Sys2Proof.Machine.execCancel s
  | .recv => Sys2Proof.Machine.execRecv s
  | .isochk => Sys2Proof.Machine.execIsochk s
  | .extract => Sys2Proof.Machine.execExtract s
  | .collide => Sys2Proof.Machine.execCollide s
  | .fatalchk => Sys2Proof.Machine.execFatalchk s
  | .next => Sys2Proof.Machine.execNext s
  | .sendreq => Sys2Proof.Machine.execSendreq s
  | .csum bs => Sys2Proof.Machine.execCsum bs s
  | .verify f => Sys2Proof.Machine.execVerify f s
  | .fields f => Sys2Proof.Machine.execFields f s
  | .encode cmd payload => Sys2Proof.Machine.execEncode cmd payload s
  | .decode => Sys2Proof.Machine.execDecode s
  | .clear => Sys2Proof.Machine.execClear s
  | .push m => Sys2Proof.Machine.execPush m s
  | .pop => Sys2Proof.Machine.execPop s
  | .buildreq m => Sys2Proof.Machine.execBuildreq m s
  | .derive m slot => Sys2Proof.Machine.execDerive m slot s
  | .tagparse blk => Sys2Proof.Machine.execTagparse blk s
  | .isomap code => Sys2Proof.Machine.execIsomap code s
  | .vscan v => Sys2Proof.Machine.execVscan v s
  | .cscan c => Sys2Proof.Machine.execCscan c s

end Sys2Proof.Machine
end

