-- ==== Sys2Proof/WellFormed.lean ====
section
/-! DEFINITION. When an operation's operands lie in the domain its rule gives. An operation whose operands do not is
still performed: it is refused, or, for CSUM, computed (60_exceptions.md R186, log 12). -/

namespace Sys2Proof

/-- The operand domains of R120 to R123, R141, R161 to R163; every other operation has none or a whole range. -/
def Instr.wellFormed : Instr → Bool
  | .csum s => decide (s.length ≤ 253)
  | .verify f => verifyDomain f
  | .fields f => fieldsDomain f
  | .encode _ p => encodeDomain p
  | .push m => m.wellFormed
  | .buildreq m => m.shaped
  | .derive m slot => deriveDomain m slot
  | .tagparse blk => tagDomain blk
  | .nop | .start | .cancel => true
  | .recv | .isochk | .extract | .collide | .fatalchk | .next | .sendreq => true
  | .decode | .clear | .pop => true
  | .isomap _ | .vscan _ | .cscan _ => true

end Sys2Proof
end

