-- ==== Sys2Proof/Decode.lean ====
section
/-! DEFINITION. From an operation request to an operation, or a rejection by name, and back. The whole 8-bit word is
compared (30_encoding.md R95: every row has mask 0xFF). -/

namespace Sys2Proof

/-- Why a request names no operation (30_encoding.md R109). -/
inductive DecodeError where
  /-- the word is not in R100 -/
  | noOperation (opw : BitVec 8)
  /-- the word is in R100 and its row has operands of another kind -/
  | wrongOperand (opw : BitVec 8)
deriving DecidableEq, Repr

/-- A row of R100: its word, an operand of its kind made of zeros, and the operation an operand of its kind gives. -/
structure Row where
  opw : BitVec 8
  zero : Operand
  build : Operand → Option Instr

/-- A row without operands. -/
def Row.plain (opw : BitVec 8) (i : Instr) : Row :=
  ⟨opw, .none, fun x => match x with | .none => some i | _ => none⟩

/-- A row whose operand is a byte sequence; its zero operand has n bytes. -/
def Row.ofBytes (opw : BitVec 8) (n : Nat) (mk : List Byte → Instr) : Row :=
  ⟨opw, .bytes (List.replicate n 0), fun x => match x with | .bytes s => some (mk s) | _ => none⟩

/-- A row whose operand is a mask. -/
def Row.ofMask (opw : BitVec 8) (mk : Mask → Instr) : Row :=
  ⟨opw, .mask ⟨0, []⟩, fun x => match x with | .mask m => some (mk m) | _ => none⟩

/-- A row whose operand is 16 bits. -/
def Row.ofFlags (opw : BitVec 8) (mk : BitVec 16 → Instr) : Row :=
  ⟨opw, .flags 0, fun x => match x with | .flags v => some (mk v) | _ => none⟩

/-- The host and sequencer rows of R100. -/
def engineRows : List Row :=
  [.plain 0x00 .nop, .plain 0x01 .start, .plain 0x02 .cancel,
   .plain 0x10 .recv, .plain 0x11 .isochk, .plain 0x12 .extract, .plain 0x13 .collide,
   .plain 0x14 .fatalchk, .plain 0x15 .next, .plain 0x16 .sendreq]

/-- The FrameCodec and MaskStack rows of R100. -/
def unitRows : List Row :=
  [.ofBytes 0x20 0 .csum, .ofBytes 0x21 2 .verify, .ofBytes 0x22 8 .fields,
   ⟨0x23, .command 0 [], fun x => match x with | .command c p => some (.encode c p) | _ => none⟩,
   .plain 0x24 .decode,
   .plain 0x30 .clear, .ofMask 0x31 .push, .plain 0x32 .pop]

/-- The interpreter rows of R100. -/
def interpreterRows : List Row :=
  [.ofMask 0x40 .buildreq,
   ⟨0x41, .maskSlot ⟨0, []⟩ 0, fun x => match x with | .maskSlot m s => some (.derive m s) | _ => none⟩,
   .ofBytes 0x42 10 .tagparse,
   ⟨0x43, .byte 0, fun x => match x with | .byte b => some (.isomap b) | _ => none⟩,
   .ofFlags 0x44 .vscan, .ofFlags 0x45 .cscan]

/-- The operation table, R100. -/
def opcodeTable : List Row := engineRows ++ unitRows ++ interpreterRows

/-- The row a word selects: the one whose word is equal under the mask 0xFF. -/
def rowOf (w : BitVec 8) : Option Row := opcodeTable.find? fun row => w &&& 0xFF == row.opw

/-- The operation a request stands for. -/
def decode (r : Request) : Except DecodeError Instr :=
  match rowOf r.opw with
  | none => .error (.noOperation r.opw)
  | some row =>
    match row.build r.operand with
    | none => .error (.wrongOperand r.opw)
    | some i => .ok i

/-- `OPW[7:4]` names the unit and `OPW[3:0]` the operation in the unit (R95). -/
def opw (unit op : BitVec 4) : BitVec 8 := unit ++ op

/-- The request of an operation: the unit and number of its row of R100, and its operand. -/
def encode : Instr → Request
  | .nop => ⟨opw 0 0, .none⟩
  | .start => ⟨opw 0 1, .none⟩
  | .cancel => ⟨opw 0 2, .none⟩
  | .recv => ⟨opw 1 0, .none⟩
  | .isochk => ⟨opw 1 1, .none⟩
  | .extract => ⟨opw 1 2, .none⟩
  | .collide => ⟨opw 1 3, .none⟩
  | .fatalchk => ⟨opw 1 4, .none⟩
  | .next => ⟨opw 1 5, .none⟩
  | .sendreq => ⟨opw 1 6, .none⟩
  | .csum s => ⟨opw 2 0, .bytes s⟩
  | .verify f => ⟨opw 2 1, .bytes f⟩
  | .fields f => ⟨opw 2 2, .bytes f⟩
  | .encode c p => ⟨opw 2 3, .command c p⟩
  | .decode => ⟨opw 2 4, .none⟩
  | .clear => ⟨opw 3 0, .none⟩
  | .push m => ⟨opw 3 1, .mask m⟩
  | .pop => ⟨opw 3 2, .none⟩
  | .buildreq m => ⟨opw 4 0, .mask m⟩
  | .derive m s => ⟨opw 4 1, .maskSlot m s⟩
  | .tagparse b => ⟨opw 4 2, .bytes b⟩
  | .isomap b => ⟨opw 4 3, .byte b⟩
  | .vscan v => ⟨opw 4 4, .flags v⟩
  | .cscan v => ⟨opw 4 5, .flags v⟩

/-- The operand of zeros that goes with a word (log 4). -/
def zeroOperand (w : BitVec 8) : Operand :=
  match rowOf w with
  | none => .none
  | some row => row.zero

/-- The request an operation-table word stands for, its operand all zeros. -/
def tableRequest (w : Nat) : Request := ⟨BitVec.ofNat 8 w, zeroOperand (BitVec.ofNat 8 w)⟩

/-- The operation the decoder reads from a table word: one byte, nothing above it. -/
def decodeTableWord (nbits w : Nat) : Option Instr :=
  if nbits = 8 ∧ w < 256 then
    match decode (tableRequest w) with
    | .ok i => some i
    | .error _ => none
  else none

end Sys2Proof
end

