-- ==== Sys2Proof/Machine/Fetch.lean ====
section
/-! DEFINITION. Which operation the next step performs: the one the host's code or the bench's word names, or, in the
sequencer's turn, the one ST selects (42_inventory_engine.md R150). -/

namespace Sys2Proof.Machine

/-- The operation word ST selects; none where the sequencer waits (30_encoding.md R97). -/
def St.opw : St → Option (BitVec 8)
  | .idle => none
  | .roundSent => some 0x10
  | .roundReceived => some 0x11
  | .extractTags => some 0x12
  | .processCollisions => some 0x13
  | .pushMasks => some 0x14
  | .nextRound => some 0x15
  | .done => none
  | .fatal => none

/-- `OPW = zext_8(HCMD)` (30_encoding.md R96). -/
def hostRequest (hcmd : BitVec 2) : Request := ⟨hcmd.zeroExtend 8, .none⟩

/-- The request the sequencer makes of itself in its turn. -/
def State.microRequest (s : State) : Option Request := s.st.opw.map fun w => ⟨w, .none⟩

/-- What the coming step does. -/
inductive Turn where
  /-- hardware reset -/
  | reset
  /-- the sequencer waits -/
  | wait
  /-- perform the request of the host (true), or of the sequencer or the bench (false) -/
  | perform (byHost : Bool) (r : Request)
deriving DecidableEq, Repr

/-- The sequencer's turn. -/
def State.sequencerTurn (s : State) : Turn :=
  match s.microRequest with
  | none => .wait
  | some r => .perform false r

/-- The coming step, from the first of the inputs (log 1). -/
def State.turn (s : State) : Turn :=
  match s.inputs with
  | [] => s.sequencerTurn
  | .sequencer :: _ => s.sequencerTurn
  | .host hcmd :: _ => .perform true (hostRequest hcmd)
  | .bench r :: _ => .perform false r
  | .hwReset :: _ => .reset

/-- The state with the first input consumed. -/
def State.consume (s : State) : State := { s with inputs := s.inputs.tail }

/-- A request that is no operation: HCMD = 3 is refused (30_encoding.md R109); nothing else can issue one, so a bench
request of that kind stops the model (log 14). -/
def undecodable (byHost : Bool) (e : DecodeError) (s : State) : Host.Outcome State Fault Refusal :=
  if byHost then .next s.refuse
  else
    match e with
    | .noOperation w => .refused (.noOperation w)
    | .wrongOperand w => .refused (.wrongOperand w)

/-- The ST in which a word is the sequencer's micro-operation (30_encoding.md R97). -/
def stOfWord (w : BitVec 8) : Option St :=
  if w = 0x10 then some .roundSent else if w = 0x11 then some .roundReceived else if w = 0x12 then some .extractTags
  else if w = 0x13 then some .processCollisions else if w = 0x14 then some .pushMasks
  else if w = 0x15 then some .nextRound else none

/-- A pending mask where there is none: "NEXT runs only when SP != 0" (41_maskstack.md R142). -/
def State.withPending (s : State) : State :=
  if s.stkEmpty then { s with stk := [maskToReg ⟨4, [0]⟩] } else s

/-- The state in which the coming step performs the operation of a table word (log 16): a host code stands on HCMD, a
micro-operation is selected by ST in the sequencer's turn (NEXT with a mask pending), a unit is driven by a bench. -/
def placeWord (w : Nat) (s : State) : State :=
  if w < 3 then { s with inputs := .host (BitVec.ofNat 2 w) :: s.inputs }
  else
    match stOfWord (BitVec.ofNat 8 w) with
    | some .nextRound => { s.withPending with st := .nextRound, inputs := .sequencer :: s.inputs }
    | some st => { s with st := st, inputs := .sequencer :: s.inputs }
    | none => { s with inputs := .bench (tableRequest w) :: s.inputs }

end Sys2Proof.Machine
end

