-- ==== Sys2Proof/Machine/Step.lean ====
section
/-! DEFINITION. One step: one atomic operation (00_scope.md R14), a hardware reset, or a wait. -/

namespace Sys2Proof.Machine

/-- One step of the machine. -/
def step (s : State) : Host.Outcome State Fault Refusal :=
  match s.turn with
  | .reset => .next (hardReset s.consume)
  | .wait => .next s.consume
  | .perform byHost r =>
    match decode r with
    | .ok i => exec i s.consume
    | .error e => undecodable byHost e s.consume

/-- The state with a table word placed where the coming step takes its operation from (log 16). -/
def State.withFetchWord (s : State) (_nbits w : Nat) : State := placeWord w s

end Sys2Proof.Machine
end

