-- ==== Sys2Proof/Safety.lean ====
section
/-! DEFINITION. The terms the statements use: what a mask, a frame and a request are in the spec's words, the invariants
of every step and of a session, a run of steps, and the part of a state the spec specifies. -/

namespace Sys2Proof.Machine

/-! ### Masks and frames in the spec's words -/

/-- The k-th 4-bit group of a mask: the low nibble of byte `k div 2` when k is even, the high nibble when k is odd
(30_encoding.md R86). -/
def nibbleOf (m : Mask) (k : Nat) : Nat := (m.bytes.getD (k / 2) 0).toNat / 16 ^ (k % 2) % 16

/-- The mask of a colliding slot (42_inventory_engine.md R162): a new byte whose low nibble is the slot, or the slot in the
high nibble of the last byte. -/
def childMask (m : Mask) (slot : Nat) : Mask :=
  if m.len % 8 = 0 then ⟨m.len + 4, m.bytes ++ [BitVec.ofNat 8 slot]⟩
  else ⟨m.len + 4, m.bytes.dropLast ++ [m.bytes.getLastD 0 ||| BitVec.ofNat 8 (16 * slot)]⟩

/-- A register holds a well-formed mask in the fixed form, its unused bytes 0x00 (10_state.md R24). -/
def MaskReg.ok (r : MaskReg) : Bool := (maskOfReg r).wellFormed && decide (maskToReg (maskOfReg r) = r)

/-- A mask of 4k bits has level k (41_maskstack.md R144). -/
def MaskReg.level (r : MaskReg) : Nat := r.len.toNat / 4

/-- A sequence closed by its checksum pair (30_encoding.md R82). -/
def withPair (h : List Byte) : List Byte := h ++ [xor8 h, xor8 h ^^^ 0xFF]

/-- A frame with a command and a payload (30_encoding.md R80). -/
def frameOf (p : Config.Params) (cmd : Byte) (payload : List Byte) : List Byte :=
  withPair ([0x01, BitVec.ofNat 8 (payload.length + 8), 0x00, 0x00, p.txFlags, cmd] ++ payload)

/-- The inventory request frame for a mask (30_encoding.md R83). -/
def requestOf (p : Config.Params) (m : Mask) : List Byte :=
  frameOf p p.invCmdId ([0x11, 0x07, 0x01, BitVec.ofNat 8 m.len] ++ m.bytes)

/-- A complete frame: its length byte counts it, and it has 8 to 255 bytes (30_encoding.md R81). -/
def IsFrame (f : List Byte) : Prop := 8 ≤ f.length ∧ f.length ≤ 255 ∧ f.getD 1 0 = BitVec.ofNat 8 f.length

/-- The checksum pair of a sequence is right (30_encoding.md R82). -/
def PairRight (f : List Byte) : Prop :=
  f.getD (f.length - 2) 0 = xor8 (f.take (f.length - 2)) ∧
    f.getD (f.length - 1) 0 = f.getD (f.length - 2) 0 ^^^ 0xFF

/-- The next read of n bytes is not cut short by its timeout (20_memory.md R62). -/
def NotCut (n : Nat) (limits : List Nat) : Prop := n ≤ limits.headD n

/-- How many bytes the next read of n bytes returns (20_memory.md R62). -/
def arrives (n : Nat) (limits : List Nat) (rx : List Byte) : Nat := min (min n (limits.headD n)) rx.length

/-- The state with the receive registers holding anything (10_state.md R25). -/
def State.setRx (s : State) (b : Buf) (len : Byte) (f : FieldRegs) (draws : Nat) : State :=
  { s with rxb := b, rxlen := len, f := f, draws := draws }

/-- Number of set bits of a 16-bit field (00_scope.md R12). -/
def setBits (v : BitVec 16) : Nat := (List.range 16).countP fun k => v.getLsbD k

/-- The operations that are pure functions of their operands (10_state.md R39). -/
def isPure : Instr → Bool
  | .nop | .csum _ | .verify _ | .fields _ | .encode _ _ => true
  | .buildreq _ | .derive _ _ | .tagparse _ | .isomap _ | .vscan _ | .cscan _ => true
  | .start | .cancel | .recv | .isochk | .extract | .collide | .fatalchk | .next | .sendreq => false
  | .decode | .clear | .push _ | .pop => false

/-! ### The invariant every step keeps -/

/-- What holds in every state the block is ever in. -/
structure State.Ok (s : State) : Prop where
  /-- the parameters lie in their ranges (00_scope.md R10) -/
  params : s.params.ok = true
  /-- ERR != None exactly when ST == Fatal (10_state.md R30) -/
  errFatal : s.err ≠ .none ↔ s.st = .fatal
  /-- ISOCODE is non-zero exactly while ERR == IsoError (10_state.md R31) -/
  isoCode : s.isocode ≠ 0 ↔ s.err = .isoError
  /-- TAGCNT == |TAGS| (10_state.md R36) -/
  tagCount : s.tagcnt.toNat = s.tags.length
  /-- TAGS is what was emitted last on the TAG channel (10_state.md R38) -/
  tagChannel : s.tags <:+ s.tagOut
  /-- every mask on the stack is well-formed (42_inventory_engine.md R168) -/
  stack : ∀ r ∈ s.stk, r.ok = true
  /-- SP is at most STACK_DEPTH (10_state.md R33) -/
  depth : s.stk.length ≤ 256
  /-- CUR is well-formed once a START has written it (42_inventory_engine.md R168) -/
  current : s.st ≠ .idle → s.cur.ok = true

/-! ### The invariant of a session -/

/-- The inputs the block has outside a test bench: HCMD and reset (92_eei_decisions.md D29). -/
def Input.fromOutside : Input → Bool
  | .host _ | .sequencer | .hwReset => true
  | .bench _ => false

/-- RXB[0..RXLEN-1]. -/
def State.heldFrame (s : State) : List Byte := s.rxb.toList.take s.rxlen.toNat

/-- RXB holds a frame that DECODE accepted, and the field registers its fields (10_state.md R25, R26). -/
def State.FrameHeld (s : State) : Prop :=
  IsFrame s.heldFrame ∧ PairRight s.heldFrame ∧ s.heldFrame.length = s.rxlen.toNat ∧ s.f = (fieldsOf s.heldFrame).regs

/-- The states between a successful RECV and the next request. -/
def St.holdsFrame : St → Bool
  | .roundReceived | .extractTags | .processCollisions | .pushMasks | .nextRound | .done => true
  | .idle | .roundSent | .fatal => false

/-- Number of pending masks of a level. -/
def State.pendingAt (s : State) (k : Nat) : Nat := s.stk.countP fun r => r.level == k

/-- Pending masks before the pushes of a round (41_maskstack.md R144): levels 1 to CUR's, at most 15 of each. -/
def State.TreeBefore (s : State) : Prop :=
  s.cur.level ≤ 15 ∧ (∀ r ∈ s.stk, 1 ≤ r.level ∧ r.level ≤ s.cur.level) ∧ ∀ k, s.pendingAt k ≤ 15

/-- Pending masks after the pushes of a round (41_maskstack.md R144): also at most 16 one level deeper, and none of those
where nothing collided. -/
def State.TreeAfter (s : State) : Prop :=
  s.cur.level ≤ 15 ∧ (∀ r ∈ s.stk, 1 ≤ r.level ∧ r.level ≤ s.cur.level + 1) ∧
    (∀ k, k ≤ s.cur.level → s.pendingAt k ≤ 15) ∧ s.pendingAt (s.cur.level + 1) ≤ 16 ∧
    (s.coll = 0 → s.pendingAt (s.cur.level + 1) = 0)

/-- The shape of the pending masks in each ST. -/
def State.Tree (s : State) : Prop :=
  match s.st with
  | .idle | .done => s.stk = []
  | .roundSent | .roundReceived | .extractTags | .processCollisions => s.TreeBefore
  | .pushMasks => s.TreeAfter
  | .nextRound => s.TreeAfter ∧ s.stk ≠ [] ∧ ∀ r ∈ s.stk, r.level ≤ 15
  | .fatal => s.stk.length ≤ 241

/-- What holds of the block when only the host, the reset input and the Transport act on it (R145, D29). -/
structure State.SessionOk (s : State) : Prop where
  ok : s.Ok
  outside : ∀ x ∈ s.inputs, x.fromOutside = true
  /-- pushed later means at least as deep -/
  sorted : s.stk.Pairwise fun a b => a.level ≤ b.level
  tree : s.Tree
  held : s.st.holdsFrame = true → s.FrameHeld

/-! ### Runs -/

/-- n steps, stopping at a fault or a refusal. -/
def runSteps : Nat → State → Host.Outcome State Fault Refusal
  | 0, s => .next s
  | n + 1, s =>
    match step s with
    | .next t => runSteps n t
    | .fault r => .fault r
    | .refused r => .refused r

/-- The outcome with its next state mapped. -/
def mapNext (g : State → State) : Host.Outcome State Fault Refusal → Host.Outcome State Fault Refusal
  | .next t => .next (g t)
  | .fault r => .fault r
  | .refused r => .refused r

/-! ### The specified part of a state -/

/-- The first bytes of a buffer, the rest cleared. -/
def Buf.upTo (b : Buf) (n : Nat) : Buf := overlay (b.toList.take n) (Vector.replicate 255 0)

/-- The states in which VALID and COLL hold the fields of the current round. -/
def St.holdsFlags : St → Bool
  | .processCollisions | .pushMasks | .nextRound | .done => true
  | .idle | .roundSent | .roundReceived | .extractTags | .fatal => false

/-- The state with everything cleared that the spec leaves unspecified in its ST (10_state.md R42, R25, R63;
70_reset_and_hazards.md R218). -/
def State.specified (s : State) : State :=
  let idle := decide (s.st = .idle)
  let held := s.st.holdsFrame
  let flags := s.st.holdsFlags
  { s with
    cur := if idle then .empty else s.cur
    txb := if idle then Vector.replicate 255 0 else Buf.upTo s.txb s.txlen.toNat
    txlen := if idle then 0 else s.txlen
    rxb := if held then Buf.upTo s.rxb s.rxlen.toNat else Vector.replicate 255 0
    rxlen := if held then s.rxlen else 0
    f := if held then s.f else ⟨0, 0, 0, 0, 0, 0, 0, 0, 0⟩
    valid := if flags then s.valid else 0
    coll := if flags then s.coll else 0
    draws := 0 }

/-- No two writes follow one another among the Transport's calls (20_memory.md R74). -/
def LinkEvent.isWrite : LinkEvent → Bool
  | .write _ => true
  | .read _ _ => false

/-- One round in flight at most (70_reset_and_hazards.md R213): a read stands between two writes, and the last call is a
write only while the response is awaited. -/
def State.OneInFlight (s : State) : Prop :=
  s.link.IsChain (fun a b => ¬ (a.isWrite = true ∧ b.isWrite = true)) ∧
    ∀ e, s.link.getLast? = some e → e.isWrite = true → s.st = .roundSent

end Sys2Proof.Machine
end

