-- ==== Sys2Proof/Certificates/Slice0/Obligations.lean ====
section
/-! DEFINITION. The statements for the provers. Each names the rule of spec/ it formalises, or says that it rests on a
choice of the model's and names the log entry. Throughout, that a result, an error or a refusal is reported is the spec's
and that it stands in `reply` is the model's (log 5); what is read and written is the spec's and that it stands in `rx`,
`rxLimits` and `link` is the model's (logs 2 and 17). -/

open Sys2Proof Sys2Proof.Machine

/-! ### Encoding and dispatch -/

/-- Decoding the request of an operation gives the operation, and a request that decodes is the operation's own:
no bit of the word and no operand is dropped. -/
def Obligations.DecodeEncodeAgree : Prop :=
  (∀ i : Instr, decode (encode i) = .ok i) ∧ ∀ (r : Request) (i : Instr), decode r = .ok i → encode i = r

/-- Words of R100, one of each unit, written out. -/
def Obligations.SpecWordsDecode : Prop :=
  decode ⟨0b00000001, .none⟩ = .ok .start ∧ decode ⟨0b00010010, .none⟩ = .ok .extract ∧
    decode ⟨0b00010110, .none⟩ = .ok .sendreq ∧ decode ⟨0b00100011, .command 0x60 [0xAA]⟩ = .ok (.encode 0x60 [0xAA]) ∧
    decode ⟨0b00110010, .none⟩ = .ok .pop ∧ decode ⟨0b01000001, .maskSlot ⟨4, [3]⟩ 10⟩ = .ok (.derive ⟨4, [3]⟩ 10)

/-- R97, R98 and R109: the nine values of ST with their codes and the word each selects (the sequencer waits where there is
none), the nine values of ERR with their codes, no code above 8; HCMD = 3 is refused without a state change; a word outside
R100 names no operation. -/
def Obligations.UnassignedCodes : Prop :=
  (∀ (s : State) (rest : List Input), s.inputs = .host 3 :: rest →
      step s = .next { s with inputs := rest, reply := .refused }) ∧
  (∀ r : Request, (∀ i, (encode i).opw ≠ r.opw) → decode r = .error (.noOperation r.opw)) ∧
  ([.idle, .roundSent, .roundReceived, .extractTags, .processCollisions, .pushMasks, .nextRound, .done, .fatal].map
      fun st : St => (st.code, st.opw)) =
    [(0, none), (1, some 0x10), (2, some 0x11), (3, some 0x12), (4, some 0x13), (5, some 0x14), (6, some 0x15),
     (7, none), (8, none)] ∧
  ([.none, .transportTimeout, .checksumMismatch, .isoError, .clonedOrFaultError, .malformedFrame, .malformedResponse,
      .cancelled, .resultOverflow].map Err.code) = [0, 1, 2, 3, 4, 5, 6, 7, 8] ∧
  (∀ st : St, st.code.toNat ≤ 8) ∧ ∀ e : Err, e.code.toNat ≤ 8

/-- When the coming request decodes to an operation, the step is exec of it with that input consumed: the host's code
(zero-extended, R96), a bench's request, and in the sequencer's turn the word ST selects (R97). -/
def Obligations.StepRunsDecodedOperation : Prop :=
  ∀ (s : State) (rest : List Input) (i : Instr),
    (∀ c : BitVec 2, s.inputs = .host c :: rest → decode ⟨c.zeroExtend 8, .none⟩ = .ok i →
      step s = exec i { s with inputs := rest }) ∧
    (∀ r : Request, s.inputs = .bench r :: rest → decode r = .ok i → step s = exec i { s with inputs := rest }) ∧
    (∀ w : BitVec 8, s.inputs = .sequencer :: rest → s.st.opw = some w → decode ⟨w, .none⟩ = .ok i →
      step s = exec i { s with inputs := rest }) ∧
    ∀ w : BitVec 8, s.inputs = [] → s.st.opw = some w → decode ⟨w, .none⟩ = .ok i → step s = exec i s

/-- R150: in the sequencer's turn the micro-operation is chosen by ST alone, and in Idle, Done and Fatal the sequencer
waits; a host command may come between any two of them, whatever ST is. -/
def Obligations.SequencerDispatch : Prop :=
  ∀ s : State,
    let u := { s with inputs := s.inputs.tail }
    (s.inputs = [] ∨ (∃ rest, s.inputs = .sequencer :: rest) →
      match s.st with
      | .idle => step s = .next u
      | .roundSent => step s = exec .recv u
      | .roundReceived => step s = exec .isochk u
      | .extractTags => step s = exec .extract u
      | .processCollisions => step s = exec .collide u
      | .pushMasks => step s = exec .fatalchk u
      | .nextRound => step s = exec .next u
      | .done => step s = .next u
      | .fatal => step s = .next u) ∧
    (s.inputs.head? = some (.host 0) → step s = exec .nop u) ∧
    (s.inputs.head? = some (.host 1) → step s = exec .start u) ∧
    (s.inputs.head? = some (.host 2) → step s = exec .cancel u)

/-! ### Reset -/

/-- The state after hardware reset where 10_state.md R42 gives a value (its other registers hold the model's choice, log 6,
of which this says nothing). -/
def Obligations.ResetState : Prop :=
  State.reset.st = .idle ∧ State.reset.sp = 0 ∧ State.reset.stk = [] ∧ State.reset.tags = [] ∧ State.reset.tagcnt = 0 ∧
    State.reset.rounds = 0 ∧ State.reset.err = .none ∧ State.reset.isocode = 0 ∧ State.reset.cancelReq = false ∧
    State.reset.txFrames = []

/-- Hardware reset in any state gives the specified reset values, does not touch the Transport, and leaves what was written
and what is still to be delivered (R210). That the records emitted on the TAG channel, the parameters and the coming inputs
stay is the model's choice (logs 1, 3, 7 and 15). -/
def Obligations.HardwareResetInAnyState : Prop :=
  ∀ (s : State) (rest : List Input), s.inputs = .hwReset :: rest →
    ∃ t, step s = .next t ∧ t.st = .idle ∧ t.sp = 0 ∧ t.stk = [] ∧ t.tags = [] ∧ t.tagcnt = 0 ∧ t.rounds = 0 ∧
      t.err = .none ∧ t.isocode = 0 ∧ t.cancelReq = false ∧ t.link = s.link ∧ t.rx = s.rx ∧ t.rxLimits = s.rxLimits ∧
      t.tagOut = s.tagOut ∧ t.params = s.params ∧ t.inputs = rest

/-! ### Host commands -/

/-- R151. -/
def Obligations.NopChangesNothing : Prop :=
  decode ⟨0x00, .none⟩ = .ok .nop ∧ ∀ s : State, exec .nop s = .next s

/-- R152: an accepted START resets the session, sends the request of the empty mask and leaves ST = RoundSent; while BUSY
it is refused. Everything the right side does not name is unchanged. -/
def Obligations.StartBeginsSession : Prop :=
  decode ⟨0x01, .none⟩ = .ok .start ∧
  ∀ s : State,
    (s.st = .idle ∨ s.st = .done ∨ s.st = .fatal →
      exec .start s = .next { s with
        stk := [], tags := [], tagcnt := 0, err := .none, isocode := 0, cancelReq := false, rounds := 1
        cur := ⟨0, #v[0, 0, 0, 0, 0, 0, 0, 0]⟩
        txb := overlay (requestOf s.params ⟨0, []⟩) s.txb, txlen := 12
        link := s.link ++ [.write (requestOf s.params ⟨0, []⟩)], st := .roundSent, reply := .none }) ∧
    (s.st ≠ .idle ∧ s.st ≠ .done ∧ s.st ≠ .fatal → exec .start s = .next { s with reply := .refused })

/-- R153: CANCEL sets CANCEL_REQ and nothing else, and no operation but NEXT behaves otherwise for it (START and CANCEL
overwrite it). -/
def Obligations.CancelSetsFlagOnlyNextReads : Prop :=
  decode ⟨0x02, .none⟩ = .ok .cancel ∧
  (∀ s : State, exec .cancel s = .next { s with cancelReq := true, reply := .none }) ∧
  ∀ (i : Instr) (s : State) (b : Bool), i ≠ .next → i ≠ .start → i ≠ .cancel →
    exec i { s with cancelReq := b } = mapNext (fun t => { t with cancelReq := b }) (exec i s)

/-! ### Sequencer -/

/-- R154: SENDREQ builds, stores and writes the request of CUR, counts the round, and writes nothing else. -/
def Obligations.SendreqSendsCurrentMask : Prop :=
  decode ⟨0x16, .none⟩ = .ok .sendreq ∧
  ∀ s : State, s.curMask.shaped = true →
    exec .sendreq s = .next { s with
      txb := overlay (requestOf s.params s.curMask) s.txb
      txlen := BitVec.ofNat 8 (12 + (s.cur.len.toNat + 7) / 8)
      link := s.link ++ [.write (requestOf s.params s.curMask)]
      rounds := s.rounds + 1, reply := .none }

/-- R155: RECV is DECODE, then RoundReceived, or the error DECODE gave and Fatal; it always completes. -/
def Obligations.RecvIsDecodeThenTransition : Prop :=
  decode ⟨0x10, .none⟩ = .ok .recv ∧
  ∀ s : State, s.st = .roundSent →
    ∃ d, exec .decode s = .next d ∧
      ((∃ r, d.reply = .fields r ∧ exec .recv s = .next { d with st := .roundReceived, reply := .none }) ∨
       (∃ e, d.reply = .raised e ∧ (e = .transportTimeout ∨ e = .malformedFrame ∨ e = .checksumMismatch) ∧
          exec .recv s = .next { d with st := .fatal, err := e, reply := .raised e }))

/-- DECODE, and RECV in RoundSent, on a complete frame with a right pair: the frame is in RXB, its length in RXLEN, its
fields in the field registers, the bytes after it stay in the stream; everything else but the report, and RECV's ST, is
unchanged. -/
def Obligations.DecodeAcceptsFrame : Prop :=
  ∀ (s : State) (f rest : List Byte), IsFrame f → PairRight f → s.rx = f ++ rest → NotCut 2 s.rxLimits →
    NotCut (f.length - 2) s.rxLimits.tail →
    ∃ b n, b.toList.take f.length = f ∧
      let t : State := { s.setRx b (BitVec.ofNat 8 f.length) (fieldsOf f).regs n with
        rx := rest, rxLimits := s.rxLimits.tail.tail
        link := s.link ++ [.read 2 (f.take 2), .read (f.length - 2) (f.drop 2)] }
      exec .decode s = .next { t with reply := .fields (fieldsOf f) } ∧
        (s.st = .roundSent → exec .recv s = .next { t with st := .roundReceived, reply := .none })

/-- DECODE alone always completes; it may change the receive registers and the Transport's streams and reports a field
record or an error, and leaves ERR, ST and everything else as they were. -/
def Obligations.DecodeAloneOnlyReports : Prop :=
  decode ⟨0x24, .none⟩ = .ok .decode ∧
  ∀ s : State, ∃ b len f n rx limits reads r,
    exec .decode s = .next { s.setRx b len f n with
      rx := rx, rxLimits := limits, link := s.link ++ reads, reply := r } ∧
    rx <:+ s.rx ∧ (∀ e ∈ reads, e.isWrite = false) ∧ ((∃ x, r = .fields x) ∨ ∃ e, r = .raised e)

/-- R182: TransportTimeout is raised when the header read returns fewer than 2 bytes, or, for a length byte of
at least 8, the body read fewer than LEN - 2; what arrived is consumed. -/
def Obligations.TransportTimeoutInFull : Prop :=
  ∀ s : State, s.st = .roundSent →
    (arrives 2 s.rxLimits s.rx < 2 →
      ∃ b len f n, exec .recv s = .next { s.setRx b len f n with
        rx := s.rx.drop (arrives 2 s.rxLimits s.rx), rxLimits := s.rxLimits.tail
        link := s.link ++ [.read 2 (s.rx.take (arrives 2 s.rxLimits s.rx))]
        st := .fatal, err := .transportTimeout, reply := .raised .transportTimeout }) ∧
    ∀ (sof len : Byte) (body : List Byte), s.rx = sof :: len :: body → NotCut 2 s.rxLimits → 8 ≤ len.toNat →
      arrives (len.toNat - 2) s.rxLimits.tail body < len.toNat - 2 →
      ∃ b l f n, exec .recv s = .next { s.setRx b l f n with
        rx := body.drop (arrives (len.toNat - 2) s.rxLimits.tail body), rxLimits := s.rxLimits.tail.tail
        link := s.link ++ [.read 2 [sof, len],
          .read (len.toNat - 2) (body.take (arrives (len.toNat - 2) s.rxLimits.tail body))]
        st := .fatal, err := .transportTimeout, reply := .raised .transportTimeout }

/-- R183: ChecksumMismatch is raised for a complete frame whose pair is not right, and its bytes are consumed; and it is
raised, by RECV or as the result of DECODE alone, only for such a frame, its length byte at least 8 and all its bytes
arrived. -/
def Obligations.ChecksumMismatchInFull : Prop :=
  (∀ (s : State) (f rest : List Byte), s.st = .roundSent → IsFrame f → ¬ PairRight f → s.rx = f ++ rest →
    NotCut 2 s.rxLimits → NotCut (f.length - 2) s.rxLimits.tail →
    ∃ b len g n, exec .recv s = .next { s.setRx b len g n with
      rx := rest, rxLimits := s.rxLimits.tail.tail
      link := s.link ++ [.read 2 (f.take 2), .read (f.length - 2) (f.drop 2)]
      st := .fatal, err := .checksumMismatch, reply := .raised .checksumMismatch }) ∧
  ∀ (i : Instr) (s t : State), exec i s = .next t →
    (s.st ≠ .fatal ∧ t.st = .fatal ∧ t.err = .checksumMismatch → i = .recv ∧ s.st = .roundSent) ∧
    (s.st ≠ .fatal ∧ t.st = .fatal ∧ t.err = .checksumMismatch ∨ i = .decode ∧ t.reply = .raised .checksumMismatch →
      ∃ f rest, IsFrame f ∧ ¬ PairRight f ∧ s.rx = f ++ rest ∧ NotCut 2 s.rxLimits ∧
        NotCut (f.length - 2) s.rxLimits.tail)

/-- R187: MalformedFrame is raised when the second byte is 0 to 7; nothing more is read. -/
def Obligations.MalformedFrameInFull : Prop :=
  ∀ (s : State) (sof len : Byte) (rest : List Byte), s.st = .roundSent → s.rx = sof :: len :: rest →
    NotCut 2 s.rxLimits → len.toNat < 8 →
    ∃ b l f n, exec .recv s = .next { s.setRx b l f n with
      rx := rest, rxLimits := s.rxLimits.tail, link := s.link ++ [.read 2 [sof, len]]
      st := .fatal, err := .malformedFrame, reply := .raised .malformedFrame }

/-- R156: an error frame with a non-zero code raises IsoError and records the code; anything else goes on to ExtractTags. -/
def Obligations.IsochkChecksErrorFrame : Prop :=
  decode ⟨0x11, .none⟩ = .ok .isochk ∧
  ∀ s : State, s.st = .roundReceived →
    (s.f.len = s.params.errFrameLen ∧ s.rxb[s.params.errCodeOff] ≠ 0 →
      exec .isochk s = .next { s with
        isocode := s.rxb[s.params.errCodeOff], err := .isoError, st := .fatal, reply := .raised .isoError }) ∧
    (s.f.len ≠ s.params.errFrameLen ∨ s.rxb[s.params.errCodeOff] = 0 →
      exec .isochk s = .next { s with st := .extractTags, reply := .none })

/-- R157: EXTRACT's three tests in order, each before any write, then one record per set valid-data bit from the payload in
RXB, and both flag fields. -/
def Obligations.ExtractAppendsTags : Prop :=
  decode ⟨0x12, .none⟩ = .ok .extract ∧
  ∀ s : State, s.st = .extractTags →
    let p := fun i : Nat => s.rxb.toList.getD (6 + i) 0
    let v : BitVec 16 := p 1 ++ p 0
    let c : BitVec 16 := p 3 ++ p 2
    let n := setBits v
    let recs := (List.range n).map fun i => parseTag ((s.rxb.toList.drop (10 + 10 * i)).take 10)
    (s.f.plen.toNat < 4 ∨ s.f.plen.toNat < 4 + 10 * n →
      exec .extract s = .next { s with err := .malformedResponse, st := .fatal, reply := .raised .malformedResponse }) ∧
    (4 ≤ s.f.plen.toNat → 4 + 10 * n ≤ s.f.plen.toNat → 2 ^ 32 - 1 < s.tagcnt.toNat + n →
      exec .extract s = .next { s with err := .resultOverflow, st := .fatal, reply := .raised .resultOverflow }) ∧
    (4 ≤ s.f.plen.toNat → 4 + 10 * n ≤ s.f.plen.toNat → s.tagcnt.toNat + n ≤ 2 ^ 32 - 1 →
      exec .extract s = .next { s with
        valid := v, coll := c, tags := s.tags ++ recs, tagcnt := BitVec.ofNat 32 (s.tagcnt.toNat + n)
        tagOut := s.tagOut ++ recs, st := .processCollisions, reply := .none })

/-- R158: COLLIDE pushes, in CSCAN order, the mask of every colliding slot, each derived from the same CUR. -/
def Obligations.CollidePushesNewMasks : Prop :=
  decode ⟨0x13, .none⟩ = .ok .collide ∧
  ∀ s : State, s.st = .processCollisions → s.cur.ok = true → s.cur.len.toNat ≤ 60 →
    s.stk.length + setBits s.coll ≤ 256 →
    exec .collide s = .next { s with
      stk := s.stk ++ (cscan s.coll).map fun slot => maskToReg (childMask s.curMask slot)
      st := .pushMasks, reply := .none }

/-- R159: ClonedOrFaultError where a 64-bit mask was formed, else another round or Done. -/
def Obligations.FatalchkChooses : Prop :=
  decode ⟨0x14, .none⟩ = .ok .fatalchk ∧
  ∀ s : State, s.st = .pushMasks →
    (s.coll ≠ 0 ∧ s.cur.len = 60 →
      exec .fatalchk s = .next { s with
        err := .clonedOrFaultError, st := .fatal, reply := .raised .clonedOrFaultError }) ∧
    ((s.coll = 0 ∨ s.cur.len ≠ 60) ∧ s.stk ≠ [] → exec .fatalchk s = .next { s with st := .nextRound, reply := .none }) ∧
    ((s.coll = 0 ∨ s.cur.len ≠ 60) ∧ s.stk = [] → exec .fatalchk s = .next { s with st := .done, reply := .none })

/-- R160: NEXT raises Cancelled before it pops or sends anything, or pops the top mask into CUR and sends its request. -/
def Obligations.NextPopsAndSends : Prop :=
  decode ⟨0x15, .none⟩ = .ok .next ∧
  ∀ s : State, s.st = .nextRound →
    (s.cancelReq = true →
      exec .next s = .next { s with err := .cancelled, st := .fatal, reply := .raised .cancelled }) ∧
    (s.cancelReq = false → ∀ (rest : List MaskReg) (r : MaskReg), s.stk = rest ++ [r] → r.ok = true →
      exec .next s = .next { s with
        stk := rest, cur := r
        txb := overlay (requestOf s.params (maskOfReg r)) s.txb
        txlen := BitVec.ofNat 8 (12 + (r.len.toNat + 7) / 8)
        link := s.link ++ [.write (requestOf s.params (maskOfReg r))]
        rounds := s.rounds + 1, st := .roundSent, reply := .none })

/-- The model's choice (log 11): a micro-operation asked for in an ST that does not select it is refused. -/
def Obligations.MicroOperationRefusedElsewhere : Prop :=
  ∀ s : State,
    (s.st ≠ .roundSent → exec .recv s = .next { s with reply := .refused }) ∧
    (s.st ≠ .roundReceived → exec .isochk s = .next { s with reply := .refused }) ∧
    (s.st ≠ .extractTags → exec .extract s = .next { s with reply := .refused }) ∧
    (s.st ≠ .processCollisions → exec .collide s = .next { s with reply := .refused }) ∧
    (s.st ≠ .pushMasks → exec .fatalchk s = .next { s with reply := .refused }) ∧
    (s.st ≠ .nextRound → exec .next s = .next { s with reply := .refused })

/-- The model's choice (logs 10 and 14): where a unit invoked by an engine operation refuses, and where a bench asks for a
word outside R100, the model stops by name. -/
def Obligations.StopsByName : Prop :=
  ∀ s : State,
    (∀ (r : Request) (rest : List Input), s.inputs = .bench r :: rest → (∀ i, (encode i).opw ≠ r.opw) →
      step s = .refused (.noOperation r.opw)) ∧
    (s.curMask.shaped = false → exec .sendreq s = .fault .unitRefusedInside) ∧
    (s.st = .nextRound → s.cancelReq = false → s.stk = [] → exec .next s = .fault .unitRefusedInside) ∧
    (s.st = .processCollisions → s.coll ≠ 0 → s.curMask.wellFormed = false ∨ 60 < s.cur.len.toNat ∨ 256 ≤ s.stk.length →
      exec .collide s = .fault .unitRefusedInside)

/-! ### FrameCodec -/

/-- CSUM (R120). Beyond the 253 bytes R120 names, that the same XOR is computed is the model's choice (log 12). -/
def Obligations.CsumIsXorAndComplement : Prop :=
  ∀ (bs : List Byte) (s : State),
    let c := bs.foldl (fun a b => a ^^^ b) 0
    decode ⟨0x20, .bytes bs⟩ = .ok (.csum bs) ∧ exec (.csum bs) s = .next { s with reply := .checksum c (~~~ c) }

/-- R121: VERIFY tests both bytes of the pair. -/
def Obligations.VerifyTestsBothBytes : Prop :=
  ∀ (f : List Byte) (s : State), 2 ≤ f.length →
    decode ⟨0x21, .bytes f⟩ = .ok (.verify f) ∧
      ∃ ok : Bool, (ok = true ↔ PairRight f) ∧ exec (.verify f) s = .next { s with reply := .verified ok }

/-- VERIFY rejects every single-bit change of a sequence it accepts, and does not see two changes of one bit position in
two of the covered bytes. -/
def Obligations.VerifyDetectsSingleBit : Prop :=
  ∀ (f : List Byte) (s : State) (i bit : Nat), 2 ≤ f.length → i < f.length → bit < 8 → PairRight f →
    exec (.verify (f.set i (f.getD i 0 ^^^ BitVec.twoPow 8 bit))) s = .next { s with reply := .verified false } ∧
    ∀ j, j ≠ i → i < f.length - 2 → j < f.length - 2 →
      exec (.verify ((f.set i (f.getD i 0 ^^^ BitVec.twoPow 8 bit)).set j (f.getD j 0 ^^^ BitVec.twoPow 8 bit))) s =
        .next { s with reply := .verified true }

/-- R122: every field from its offset. -/
def Obligations.FieldsExtracts : Prop :=
  ∀ (a0 a1 a2 a3 a4 a5 c n : Byte) (payload : List Byte) (s : State), payload.length ≤ 247 →
    let regs : FieldRegs :=
      { sof := a0, len := a1, addrLo := a2, addrHi := a3, flags := a4, cmd := a5
        plen := BitVec.ofNat 8 payload.length, csum := c, csumn := n }
    let f := [a0, a1, a2, a3, a4, a5] ++ payload ++ [c, n]
    decode ⟨0x22, .bytes f⟩ = .ok (.fields f) ∧
      exec (.fields f) s = .next { s with reply := .fields { regs := regs, payload := payload } }

/-- R123: the frame of a command and a payload, or a refusal above 247 payload bytes. -/
def Obligations.EncodeBuildsFrame : Prop :=
  ∀ (cmd : Byte) (payload : List Byte) (s : State),
    decode ⟨0x23, .command cmd payload⟩ = .ok (.encode cmd payload) ∧
    (payload.length ≤ 247 →
      exec (.encode cmd payload) s = .next { s with reply := .frame (frameOf s.params cmd payload) }) ∧
    (247 < payload.length → exec (.encode cmd payload) s = .next { s with reply := .refused })

/-- R125: what ENCODE makes, DECODE recovers. -/
def Obligations.CodecRoundTrip : Prop :=
  ∀ (s : State) (cmd : Byte) (payload f rest : List Byte), payload.length ≤ 247 →
    exec (.encode cmd payload) s = .next { s with reply := .frame f } →
    s.rx = f ++ rest → NotCut 2 s.rxLimits → NotCut (payload.length + 6) s.rxLimits.tail →
    ∃ t r, exec .decode s = .next t ∧ t.reply = .fields r ∧ t.f = r.regs ∧ r.regs.cmd = cmd ∧
      r.regs.plen.toNat = payload.length ∧ r.payload = payload ∧ t.payload = payload ∧ r.regs.sof = 0x01 ∧
      r.regs.addrLo = 0 ∧ r.regs.addrHi = 0 ∧ r.regs.flags = s.params.txFlags ∧
      r.regs.len.toNat = payload.length + 8 ∧ t.rx = rest

/-- R126: every frame ENCODE makes and every frame DECODE accepts has a right pair and counts itself; the XOR of all its
bytes but the last is 0 and of all its bytes the complement. -/
def Obligations.FrameSelfConsistency : Prop :=
  let consistent := fun f : List Byte =>
    PairRight f ∧ (f.getD 1 0).toNat = f.length ∧ f.dropLast.foldl (fun a b => a ^^^ b) 0 = 0 ∧
      f.foldl (fun a b => a ^^^ b) 0 = f.getLastD 0
  (∀ (cmd : Byte) (payload f : List Byte) (s : State),
    exec (.encode cmd payload) s = .next { s with reply := .frame f } → consistent f) ∧
  ∀ (s t : State) (r : FieldRecord), exec .decode s = .next t → t.reply = .fields r → consistent t.heldFrame

/-! ### MaskStack -/

/-- R24: what a mask value is, when it is canonical, and the fixed form a register holds it in. -/
def Obligations.WellFormedMaskMeans : Prop :=
  ∀ m : Mask,
    (m.wellFormed = true ↔
      m.len % 4 = 0 ∧ m.len ≤ 64 ∧ m.bytes.length = (m.len + 7) / 8 ∧
        (m.len % 8 = 4 → (m.bytes.getLastD 0).toNat < 16)) ∧
    (m.wellFormed = true →
      (maskToReg m).len.toNat = m.len ∧ ∀ j, j < 8 → (maskToReg m).bytes.toList.getD j 0 = m.bytes.getD j 0)

/-- R140. -/
def Obligations.ClearEmptiesStack : Prop :=
  decode ⟨0x30, .none⟩ = .ok .clear ∧ ∀ s : State, exec .clear s = .next { s with stk := [], reply := .none }

/-- R141: PUSH appends the entry in the fixed form, or is refused when the stack is full or the mask ill-formed. -/
def Obligations.PushAppendsEntry : Prop :=
  ∀ (m : Mask) (s : State),
    decode ⟨0x31, .mask m⟩ = .ok (.push m) ∧
    (s.stk.length < 256 → m.wellFormed = true → ∀ r : MaskReg, r.len.toNat = m.len →
      r.bytes.toList = m.bytes ++ List.replicate (8 - m.bytes.length) 0 →
      exec (.push m) s = .next { s with stk := s.stk ++ [r], reply := .none }) ∧
    (256 ≤ s.stk.length ∨ m.wellFormed = false → exec (.push m) s = .next { s with reply := .refused })

/-- R142: POP removes the entry pushed last and returns its mask, or is refused on an empty stack. -/
def Obligations.PopReturnsLastPushed : Prop :=
  decode ⟨0x32, .none⟩ = .ok .pop ∧
  ∀ s : State,
    (∀ (rest : List MaskReg) (r : MaskReg), s.stk = rest ++ [r] →
      exec .pop s = .next { s with
        stk := rest, reply := .mask ⟨r.len.toNat, r.bytes.toList.take ((r.len.toNat + 7) / 8)⟩ }) ∧
    (s.stk = [] → exec .pop s = .next { s with reply := .refused })

/-- POP straight after PUSH returns the mask and restores the stack. -/
def Obligations.PushThenPopReturnsMask : Prop :=
  ∀ (m : Mask) (s : State), s.stk.length < 256 → m.wellFormed = true →
    ∃ t, exec (.push m) s = .next t ∧ exec .pop t = .next { s with reply := .mask m }

/-! ### Interpreter -/

/-- R161. -/
def Obligations.BuildreqPayload : Prop :=
  ∀ (m : Mask) (s : State),
    decode ⟨0x40, .mask m⟩ = .ok (.buildreq m) ∧
    (m.len % 4 = 0 → m.len ≤ 64 → m.bytes.length = (m.len + 7) / 8 →
      exec (.buildreq m) s = .next { s with reply := .payload ([0x11, 0x07, 0x01, BitVec.ofNat 8 m.len] ++ m.bytes) }) ∧
    (m.len % 4 ≠ 0 ∨ 64 < m.len ∨ m.bytes.length ≠ (m.len + 7) / 8 →
      exec (.buildreq m) s = .next { s with reply := .refused })

/-- R162. -/
def Obligations.DerivePlacesSlot : Prop :=
  ∀ (m : Mask) (slot : Nat) (s : State),
    decode ⟨0x41, .maskSlot m slot⟩ = .ok (.derive m slot) ∧
    (m.wellFormed = true → m.len ≤ 60 → slot ≤ 15 →
      exec (.derive m slot) s = .next { s with reply := .mask (childMask m slot) }) ∧
    (m.wellFormed = false ∨ 60 < m.len ∨ 15 < slot → exec (.derive m slot) s = .next { s with reply := .refused })

/-- A derived mask is well-formed and 4 bits longer; its new 4-bit group is the slot and every earlier group is kept. -/
def Obligations.DeriveGrowsByOneNibble : Prop :=
  ∀ (m : Mask) (slot : Nat) (s : State), m.wellFormed = true → m.len ≤ 60 → slot ≤ 15 →
    ∃ m', exec (.derive m slot) s = .next { s with reply := .mask m' } ∧ m'.wellFormed = true ∧ m'.len = m.len + 4 ∧
      nibbleOf m' (m.len / 4) = slot ∧ ∀ k, k < m.len / 4 → nibbleOf m' k = nibbleOf m k

/-- R163: byte j of the UID is block byte j, DSFID is byte 8, byte 9 is ignored. -/
def Obligations.TagparseReadsBlock : Prop :=
  ∀ (blk : List Byte) (s : State), blk.length = 10 →
    decode ⟨0x42, .bytes blk⟩ = .ok (.tagparse blk) ∧ ∃ t : TagRecord, exec (.tagparse blk) s = .next { s with reply := .tag t } ∧
      (∀ j, j < 8 → t.uid.extractLsb' (8 * j) 8 = blk.getD j 0) ∧ t.dsfid = blk.getD 8 0

/-- R164, and MEANING is the same function of ISOCODE at all times (R32). -/
def Obligations.IsomapMeaning : Prop :=
  ∀ (code : Byte) (s : State), decode ⟨0x43, .byte code⟩ = .ok (.isomap code) ∧
    (∃ m : BitVec 2, exec (.isomap code) s = .next { s with reply := .meaning m } ∧
      m = if code = 1 then 0 else if code = 2 then 1 else if code = 4 then 2 else 3) ∧
    s.meaning = if s.isocode = 1 then 0 else if s.isocode = 2 then 1 else if s.isocode = 4 then 2 else 3

/-- R165: the set slots, ascending. -/
def Obligations.VscanAscending : Prop :=
  ∀ (v : BitVec 16) (s : State), decode ⟨0x44, .flags v⟩ = .ok (.vscan v) ∧ ∃ l, exec (.vscan v) s = .next { s with reply := .slots l } ∧
    l.Pairwise (fun a b => a < b) ∧ (∀ k, k ∈ l ↔ k < 16 ∧ v.getLsbD k = true) ∧ l.length = setBits v

/-- R166: the set slots by scan position, and at equal position low byte first. -/
def Obligations.CscanInterleaved : Prop :=
  ∀ (c : BitVec 16) (s : State), decode ⟨0x45, .flags c⟩ = .ok (.cscan c) ∧ ∃ l, exec (.cscan c) s = .next { s with reply := .slots l } ∧
    l.Pairwise (fun a b => a % 8 < b % 8 ∨ a % 8 = b % 8 ∧ a < b) ∧ (∀ k, k ∈ l ↔ k < 16 ∧ c.getLsbD k = true) ∧
    l.length = setBits c

/-- The model's choice (log 12): VERIFY, FIELDS and TAGPARSE are refused outside the domains their rules give. -/
def Obligations.OutsideDomainRefused : Prop :=
  ∀ (bs : List Byte) (s : State),
    (bs.length < 2 → exec (.verify bs) s = .next { s with reply := .refused }) ∧
    (bs.length < 8 ∨ 255 < bs.length → exec (.fields bs) s = .next { s with reply := .refused }) ∧
    (bs.length ≠ 10 → exec (.tagparse bs) s = .next { s with reply := .refused })

/-! ### Whole-machine rules -/

/-- The operations R39 calls pure functions of their operands touch no register: only the report may differ. That they also
complete on operands outside their domains is R186 for ENCODE, BUILDREQ and DERIVE, and the model's choice for VERIFY, FIELDS,
TAGPARSE and CSUM (log 12). -/
def Obligations.PureOperationsTouchNoRegister : Prop :=
  ∀ (i : Instr) (s : State), isPure i = true → ∃ r, exec i s = .next { s with reply := r }

/-- The frame of R39's access table: each register changes only under the operations the table lets write it. -/
def Obligations.AccessTableFrames : Prop :=
  ∀ (i : Instr) (s t : State), exec i s = .next t →
    (i ≠ .start → i ≠ .recv → i ≠ .isochk → i ≠ .extract → i ≠ .collide → i ≠ .fatalchk → i ≠ .next → t.st = s.st) ∧
    (i ≠ .start → i ≠ .next → t.cur = s.cur) ∧
    (i ≠ .start → i ≠ .next → i ≠ .sendreq →
      t.txb = s.txb ∧ t.txlen = s.txlen ∧ t.rounds = s.rounds ∧ t.txFrames = s.txFrames) ∧
    (i ≠ .recv → i ≠ .decode →
      t.rxb = s.rxb ∧ t.rxlen = s.rxlen ∧ t.f = s.f ∧ t.rx = s.rx ∧ t.rxLimits = s.rxLimits) ∧
    (i ≠ .extract → t.valid = s.valid ∧ t.coll = s.coll ∧ t.tagOut = s.tagOut) ∧
    (i ≠ .start → i ≠ .cancel → t.cancelReq = s.cancelReq) ∧
    (i ≠ .start → i ≠ .recv → i ≠ .isochk → i ≠ .extract → i ≠ .fatalchk → i ≠ .next → t.err = s.err) ∧
    (i ≠ .start → i ≠ .isochk → t.isocode = s.isocode) ∧
    (i ≠ .start → i ≠ .collide → i ≠ .next → i ≠ .clear → (∀ m, i ≠ .push m) → i ≠ .pop → t.stk = s.stk) ∧
    (i ≠ .start → i ≠ .extract → t.tags = s.tags ∧ t.tagcnt = s.tagcnt) ∧
    t.params = s.params ∧ t.inputs = s.inputs

/-- R167: the complete transition relation of ST, with the condition of each row (RECV's is whether DECODE succeeds, EXTRACT's
are the tests of R157). -/
def Obligations.TransitionRelation : Prop :=
  (∀ (i : Instr) (s t : State), exec i s = .next t →
    match i, s.st with
    | .start, .idle | .start, .done | .start, .fatal => t.st = .roundSent
    | .recv, .roundSent =>
      ∃ d, exec .decode s = .next d ∧
        ((∃ r, d.reply = .fields r ∧ t.st = .roundReceived) ∨
         (∃ e, d.reply = .raised e ∧ (e = .transportTimeout ∨ e = .malformedFrame ∨ e = .checksumMismatch) ∧
            t.st = .fatal ∧ t.err = e))
    | .isochk, .roundReceived =>
      if s.f.len = s.params.errFrameLen ∧ s.rxb[s.params.errCodeOff] ≠ 0 then t.st = .fatal ∧ t.err = .isoError
      else t.st = .extractTags
    | .extract, .extractTags =>
      let n := setBits (s.rxb.toList.getD 7 0 ++ s.rxb.toList.getD 6 0)
      if s.f.plen.toNat < 4 ∨ s.f.plen.toNat < 4 + 10 * n then t.st = .fatal ∧ t.err = .malformedResponse
      else if 2 ^ 32 - 1 < s.tagcnt.toNat + n then t.st = .fatal ∧ t.err = .resultOverflow
      else t.st = .processCollisions
    | .collide, .processCollisions => t.st = .pushMasks
    | .fatalchk, .pushMasks =>
      if s.coll ≠ 0 ∧ s.cur.len = 60 then t.st = .fatal ∧ t.err = .clonedOrFaultError
      else if s.stk ≠ [] then t.st = .nextRound else t.st = .done
    | .next, .nextRound => if s.cancelReq = true then t.st = .fatal ∧ t.err = .cancelled else t.st = .roundSent
    | _, _ => t.st = s.st) ∧
  (∀ (s : State) (rest : List Input), s.inputs = .host 3 :: rest → ∃ t, step s = .next t ∧ t.st = s.st) ∧
  ∀ (s : State) (rest : List Input), s.inputs = .hwReset :: rest → ∃ t, step s = .next t ∧ t.st = .idle

/-- R195: in Fatal nothing but START or reset changes the error, its code or ST, and the sequencer waits. -/
def Obligations.ErrorsDoNotNest : Prop :=
  (∀ (i : Instr) (s t : State), s.st = .fatal → i ≠ .start → exec i s = .next t →
    t.st = .fatal ∧ t.err = s.err ∧ t.isocode = s.isocode) ∧
  ∀ s : State, s.st = .fatal → s.inputs = [] → step s = .next s

/-- A refusal changes nothing but the report. -/
def Obligations.RefusalChangesNothing : Prop :=
  ∀ (i : Instr) (s t : State), i ≠ .nop → exec i s = .next t → t.reply = .refused → t = { s with reply := .refused }

/-- TAGS and the TAG channel only grow, by the same records, but for the START that empties TAGS. -/
def Obligations.TagsOnlyGrow : Prop :=
  ∀ (i : Instr) (s t : State), exec i s = .next t →
    (∃ new, t.tagOut = s.tagOut ++ new ∧ (i ≠ .start → t.tags = s.tags ++ new)) ∧
    (i = .start → t.tags = s.tags ∨ t.tags = [])

/-- ROUNDS is read by no rule and VALID by no later operation: no operation does anything else for another value. -/
def Obligations.RoundsAndValidUnread : Prop :=
  ∀ (i : Instr) (s : State) (n : BitVec 32) (v : BitVec 16),
    mapNext (fun t => { t with rounds := 0, valid := 0 }) (exec i { s with rounds := n, valid := v }) =
      mapNext (fun t => { t with rounds := 0, valid := 0 }) (exec i s)

/-! ### Invariants and sessions -/

/-- The reset state meets the invariant of every step, and the invariant of a session. -/
def Obligations.ResetMeetsInvariants : Prop := State.reset.Ok ∧ State.reset.SessionOk

/-- Every step, whoever acts, keeps: the parameters' ranges, ERR != None exactly in Fatal, ISOCODE != 0 exactly under
IsoError, TAGCNT == |TAGS|, TAGS at the end of the TAG channel, well-formed masks in the stack and in CUR, SP <= 256. -/
def Obligations.EveryStepKeepsOk : Prop := ∀ s t : State, s.Ok → step s = .next t → t.Ok

/-- Every step of a block that only the host, the reset input and the Transport drive keeps the invariant of a session. -/
def Obligations.EveryStepKeepsSession : Prop := ∀ s t : State, s.SessionOk → step s = .next t → t.SessionOk

/-- In a session no step stops: no unit refuses inside an operation, whatever the host, reset and the Transport do. -/
def Obligations.SessionNeverStops : Prop := ∀ s : State, s.SessionOk → ∃ t, step s = .next t

/-- R144: in a session SP never exceeds 241, in a round that continues 226, and no PUSH of COLLIDE is refused. -/
def Obligations.OccupancyBound : Prop :=
  ∀ s : State, s.SessionOk →
    s.sp.toNat = s.stk.length ∧ s.stk.length ≤ 241 ∧ (s.st = .nextRound → s.stk.length ≤ 226) ∧
      (s.st = .processCollisions → ∃ t, exec .collide s = .next t ∧ t.st = .pushMasks)

/-- R170: one number N bounds every session: whatever the Transport delivers, however much of it, and whatever host commands
are pending, a session state reaches Done or Fatal within N steps and one for each pending input; or it rests in Idle with no
input left, or a pending reset abandons it. No current mask of a running session is longer than 60 bits and no pending one
longer than 64. -/
def Obligations.SessionTerminates : Prop :=
  (∃ N, ∀ s : State, s.SessionOk → ∃ n t, n ≤ N + s.inputs.length ∧ runSteps n s = .next t ∧
    (t.st = .done ∨ t.st = .fatal ∨
      t.st = .idle ∧ (s.st = .idle ∧ t.inputs = [] ∨ Input.hwReset ∈ s.inputs))) ∧
  ∀ s : State, s.SessionOk → s.busy = true → s.cur.len.toNat ≤ 60 ∧ ∀ r ∈ s.stk, r.len.toNat ≤ 64

/-- R218: no step reads a register that holds an unspecified value: two session states that agree on the specified part
step to states that agree on it. -/
def Obligations.UnspecifiedNeverRead : Prop :=
  ∀ s s' : State, s.SessionOk → s'.SessionOk → s.specified = s'.specified →
    ∃ t t', step s = .next t ∧ step s' = .next t' ∧ t.specified = t'.specified

/-- R213: without a reset in between, a read stands between any two writes, and a write is outstanding only in RoundSent. -/
def Obligations.OneRoundInFlight : Prop :=
  ∀ s t : State, (∀ x ∈ s.inputs, x.fromOutside = true ∧ x ≠ .hwReset) → s.OneInFlight → step s = .next t →
    t.OneInFlight

/-- The mask of the colliding slot scanned last is the next request, and the round's other masks wait above the older
ones: COLLIDE, FATALCHK and NEXT in three steps. -/
def Obligations.LastPushedExploredFirst : Prop :=
  ∀ (s : State) (slots : List Nat) (last : Nat), s.SessionOk → s.inputs = [] → s.st = .processCollisions →
    s.cancelReq = false → s.cur.len.toNat < 60 → cscan s.coll = slots ++ [last] →
    ∃ t, runSteps 3 s = .next t ∧ t.st = .roundSent ∧ t.cur = maskToReg (childMask s.curMask last) ∧
      t.stk = s.stk ++ slots.map (fun slot => maskToReg (childMask s.curMask slot)) ∧
      t.txFrames = s.txFrames ++ [requestOf s.params (childMask s.curMask last)]
end

