-- ==== Sys2Proof/Laws/State.lean ====
section
/-! SUPPORT. One lemma per field per update of the state, each true by rfl. -/

namespace Sys2Proof.Machine

@[simp] theorem report_st (r : Reply) (s : State) : (s.report r).st = s.st := rfl
@[simp] theorem report_cur (r : Reply) (s : State) : (s.report r).cur = s.cur := rfl
@[simp] theorem report_txb (r : Reply) (s : State) : (s.report r).txb = s.txb := rfl
@[simp] theorem report_txlen (r : Reply) (s : State) : (s.report r).txlen = s.txlen := rfl
@[simp] theorem report_rxb (r : Reply) (s : State) : (s.report r).rxb = s.rxb := rfl
@[simp] theorem report_rxlen (r : Reply) (s : State) : (s.report r).rxlen = s.rxlen := rfl
@[simp] theorem report_f (r : Reply) (s : State) : (s.report r).f = s.f := rfl
@[simp] theorem report_valid (r : Reply) (s : State) : (s.report r).valid = s.valid := rfl
@[simp] theorem report_coll (r : Reply) (s : State) : (s.report r).coll = s.coll := rfl
@[simp] theorem report_cancelReq (r : Reply) (s : State) : (s.report r).cancelReq = s.cancelReq := rfl
@[simp] theorem report_err (r : Reply) (s : State) : (s.report r).err = s.err := rfl
@[simp] theorem report_isocode (r : Reply) (s : State) : (s.report r).isocode = s.isocode := rfl
@[simp] theorem report_stk (r : Reply) (s : State) : (s.report r).stk = s.stk := rfl
@[simp] theorem report_rounds (r : Reply) (s : State) : (s.report r).rounds = s.rounds := rfl
@[simp] theorem report_tagcnt (r : Reply) (s : State) : (s.report r).tagcnt = s.tagcnt := rfl
@[simp] theorem report_tags (r : Reply) (s : State) : (s.report r).tags = s.tags := rfl
@[simp] theorem report_tagOut (r : Reply) (s : State) : (s.report r).tagOut = s.tagOut := rfl
@[simp] theorem report_link (r : Reply) (s : State) : (s.report r).link = s.link := rfl
@[simp] theorem report_rx (r : Reply) (s : State) : (s.report r).rx = s.rx := rfl
@[simp] theorem report_rxLimits (r : Reply) (s : State) : (s.report r).rxLimits = s.rxLimits := rfl
@[simp] theorem report_inputs (r : Reply) (s : State) : (s.report r).inputs = s.inputs := rfl
@[simp] theorem report_reply (r : Reply) (s : State) : (s.report r).reply = r := rfl
@[simp] theorem report_params (r : Reply) (s : State) : (s.report r).params = s.params := rfl
@[simp] theorem report_draws (r : Reply) (s : State) : (s.report r).draws = s.draws := rfl

@[simp] theorem refuse_st (s : State) : s.refuse.st = s.st := rfl
@[simp] theorem refuse_cur (s : State) : s.refuse.cur = s.cur := rfl
@[simp] theorem refuse_txb (s : State) : s.refuse.txb = s.txb := rfl
@[simp] theorem refuse_txlen (s : State) : s.refuse.txlen = s.txlen := rfl
@[simp] theorem refuse_rxb (s : State) : s.refuse.rxb = s.rxb := rfl
@[simp] theorem refuse_rxlen (s : State) : s.refuse.rxlen = s.rxlen := rfl
@[simp] theorem refuse_f (s : State) : s.refuse.f = s.f := rfl
@[simp] theorem refuse_valid (s : State) : s.refuse.valid = s.valid := rfl
@[simp] theorem refuse_coll (s : State) : s.refuse.coll = s.coll := rfl
@[simp] theorem refuse_cancelReq (s : State) : s.refuse.cancelReq = s.cancelReq := rfl
@[simp] theorem refuse_err (s : State) : s.refuse.err = s.err := rfl
@[simp] theorem refuse_isocode (s : State) : s.refuse.isocode = s.isocode := rfl
@[simp] theorem refuse_stk (s : State) : s.refuse.stk = s.stk := rfl
@[simp] theorem refuse_rounds (s : State) : s.refuse.rounds = s.rounds := rfl
@[simp] theorem refuse_tagcnt (s : State) : s.refuse.tagcnt = s.tagcnt := rfl
@[simp] theorem refuse_tags (s : State) : s.refuse.tags = s.tags := rfl
@[simp] theorem refuse_tagOut (s : State) : s.refuse.tagOut = s.tagOut := rfl
@[simp] theorem refuse_link (s : State) : s.refuse.link = s.link := rfl
@[simp] theorem refuse_rx (s : State) : s.refuse.rx = s.rx := rfl
@[simp] theorem refuse_rxLimits (s : State) : s.refuse.rxLimits = s.rxLimits := rfl
@[simp] theorem refuse_inputs (s : State) : s.refuse.inputs = s.inputs := rfl
@[simp] theorem refuse_reply (s : State) : s.refuse.reply = .refused := rfl
@[simp] theorem refuse_params (s : State) : s.refuse.params = s.params := rfl
@[simp] theorem refuse_draws (s : State) : s.refuse.draws = s.draws := rfl

@[simp] theorem raise_st (e : Err) (s : State) : (s.raise e).st = .fatal := rfl
@[simp] theorem raise_cur (e : Err) (s : State) : (s.raise e).cur = s.cur := rfl
@[simp] theorem raise_txb (e : Err) (s : State) : (s.raise e).txb = s.txb := rfl
@[simp] theorem raise_txlen (e : Err) (s : State) : (s.raise e).txlen = s.txlen := rfl
@[simp] theorem raise_rxb (e : Err) (s : State) : (s.raise e).rxb = s.rxb := rfl
@[simp] theorem raise_rxlen (e : Err) (s : State) : (s.raise e).rxlen = s.rxlen := rfl
@[simp] theorem raise_f (e : Err) (s : State) : (s.raise e).f = s.f := rfl
@[simp] theorem raise_valid (e : Err) (s : State) : (s.raise e).valid = s.valid := rfl
@[simp] theorem raise_coll (e : Err) (s : State) : (s.raise e).coll = s.coll := rfl
@[simp] theorem raise_cancelReq (e : Err) (s : State) : (s.raise e).cancelReq = s.cancelReq := rfl
@[simp] theorem raise_err (e : Err) (s : State) : (s.raise e).err = e := rfl
@[simp] theorem raise_isocode (e : Err) (s : State) : (s.raise e).isocode = s.isocode := rfl
@[simp] theorem raise_stk (e : Err) (s : State) : (s.raise e).stk = s.stk := rfl
@[simp] theorem raise_rounds (e : Err) (s : State) : (s.raise e).rounds = s.rounds := rfl
@[simp] theorem raise_tagcnt (e : Err) (s : State) : (s.raise e).tagcnt = s.tagcnt := rfl
@[simp] theorem raise_tags (e : Err) (s : State) : (s.raise e).tags = s.tags := rfl
@[simp] theorem raise_tagOut (e : Err) (s : State) : (s.raise e).tagOut = s.tagOut := rfl
@[simp] theorem raise_link (e : Err) (s : State) : (s.raise e).link = s.link := rfl
@[simp] theorem raise_rx (e : Err) (s : State) : (s.raise e).rx = s.rx := rfl
@[simp] theorem raise_rxLimits (e : Err) (s : State) : (s.raise e).rxLimits = s.rxLimits := rfl
@[simp] theorem raise_inputs (e : Err) (s : State) : (s.raise e).inputs = s.inputs := rfl
@[simp] theorem raise_reply (e : Err) (s : State) : (s.raise e).reply = .raised e := rfl
@[simp] theorem raise_params (e : Err) (s : State) : (s.raise e).params = s.params := rfl
@[simp] theorem raise_draws (e : Err) (s : State) : (s.raise e).draws = s.draws := rfl

@[simp] theorem consume_st (s : State) : s.consume.st = s.st := rfl
@[simp] theorem consume_cur (s : State) : s.consume.cur = s.cur := rfl
@[simp] theorem consume_txb (s : State) : s.consume.txb = s.txb := rfl
@[simp] theorem consume_txlen (s : State) : s.consume.txlen = s.txlen := rfl
@[simp] theorem consume_rxb (s : State) : s.consume.rxb = s.rxb := rfl
@[simp] theorem consume_rxlen (s : State) : s.consume.rxlen = s.rxlen := rfl
@[simp] theorem consume_f (s : State) : s.consume.f = s.f := rfl
@[simp] theorem consume_valid (s : State) : s.consume.valid = s.valid := rfl
@[simp] theorem consume_coll (s : State) : s.consume.coll = s.coll := rfl
@[simp] theorem consume_cancelReq (s : State) : s.consume.cancelReq = s.cancelReq := rfl
@[simp] theorem consume_err (s : State) : s.consume.err = s.err := rfl
@[simp] theorem consume_isocode (s : State) : s.consume.isocode = s.isocode := rfl
@[simp] theorem consume_stk (s : State) : s.consume.stk = s.stk := rfl
@[simp] theorem consume_rounds (s : State) : s.consume.rounds = s.rounds := rfl
@[simp] theorem consume_tagcnt (s : State) : s.consume.tagcnt = s.tagcnt := rfl
@[simp] theorem consume_tags (s : State) : s.consume.tags = s.tags := rfl
@[simp] theorem consume_tagOut (s : State) : s.consume.tagOut = s.tagOut := rfl
@[simp] theorem consume_link (s : State) : s.consume.link = s.link := rfl
@[simp] theorem consume_rx (s : State) : s.consume.rx = s.rx := rfl
@[simp] theorem consume_rxLimits (s : State) : s.consume.rxLimits = s.rxLimits := rfl
@[simp] theorem consume_inputs (s : State) : s.consume.inputs = s.inputs.tail := rfl
@[simp] theorem consume_reply (s : State) : s.consume.reply = s.reply := rfl
@[simp] theorem consume_params (s : State) : s.consume.params = s.params := rfl
@[simp] theorem consume_draws (s : State) : s.consume.draws = s.draws := rfl

@[simp] theorem memWrite_st (frame : List Byte) (s : State) : (memWrite frame s).st = s.st := rfl
@[simp] theorem memWrite_cur (frame : List Byte) (s : State) : (memWrite frame s).cur = s.cur := rfl
@[simp] theorem memWrite_txb (frame : List Byte) (s : State) : (memWrite frame s).txb = s.txb := rfl
@[simp] theorem memWrite_txlen (frame : List Byte) (s : State) : (memWrite frame s).txlen = s.txlen := rfl
@[simp] theorem memWrite_rxb (frame : List Byte) (s : State) : (memWrite frame s).rxb = s.rxb := rfl
@[simp] theorem memWrite_rxlen (frame : List Byte) (s : State) : (memWrite frame s).rxlen = s.rxlen := rfl
@[simp] theorem memWrite_f (frame : List Byte) (s : State) : (memWrite frame s).f = s.f := rfl
@[simp] theorem memWrite_valid (frame : List Byte) (s : State) : (memWrite frame s).valid = s.valid := rfl
@[simp] theorem memWrite_coll (frame : List Byte) (s : State) : (memWrite frame s).coll = s.coll := rfl
@[simp] theorem memWrite_cancelReq (frame : List Byte) (s : State) : (memWrite frame s).cancelReq = s.cancelReq := rfl
@[simp] theorem memWrite_err (frame : List Byte) (s : State) : (memWrite frame s).err = s.err := rfl
@[simp] theorem memWrite_isocode (frame : List Byte) (s : State) : (memWrite frame s).isocode = s.isocode := rfl
@[simp] theorem memWrite_stk (frame : List Byte) (s : State) : (memWrite frame s).stk = s.stk := rfl
@[simp] theorem memWrite_rounds (frame : List Byte) (s : State) : (memWrite frame s).rounds = s.rounds := rfl
@[simp] theorem memWrite_tagcnt (frame : List Byte) (s : State) : (memWrite frame s).tagcnt = s.tagcnt := rfl
@[simp] theorem memWrite_tags (frame : List Byte) (s : State) : (memWrite frame s).tags = s.tags := rfl
@[simp] theorem memWrite_tagOut (frame : List Byte) (s : State) : (memWrite frame s).tagOut = s.tagOut := rfl
@[simp] theorem memWrite_link (frame : List Byte) (s : State) : (memWrite frame s).link = s.link ++ [.write frame] := rfl
@[simp] theorem memWrite_rx (frame : List Byte) (s : State) : (memWrite frame s).rx = s.rx := rfl
@[simp] theorem memWrite_rxLimits (frame : List Byte) (s : State) : (memWrite frame s).rxLimits = s.rxLimits := rfl
@[simp] theorem memWrite_inputs (frame : List Byte) (s : State) : (memWrite frame s).inputs = s.inputs := rfl
@[simp] theorem memWrite_reply (frame : List Byte) (s : State) : (memWrite frame s).reply = s.reply := rfl
@[simp] theorem memWrite_params (frame : List Byte) (s : State) : (memWrite frame s).params = s.params := rfl
@[simp] theorem memWrite_draws (frame : List Byte) (s : State) : (memWrite frame s).draws = s.draws := rfl

@[simp] theorem clearStack_st (s : State) : (clearStack s).st = s.st := rfl
@[simp] theorem clearStack_cur (s : State) : (clearStack s).cur = s.cur := rfl
@[simp] theorem clearStack_txb (s : State) : (clearStack s).txb = s.txb := rfl
@[simp] theorem clearStack_txlen (s : State) : (clearStack s).txlen = s.txlen := rfl
@[simp] theorem clearStack_rxb (s : State) : (clearStack s).rxb = s.rxb := rfl
@[simp] theorem clearStack_rxlen (s : State) : (clearStack s).rxlen = s.rxlen := rfl
@[simp] theorem clearStack_f (s : State) : (clearStack s).f = s.f := rfl
@[simp] theorem clearStack_valid (s : State) : (clearStack s).valid = s.valid := rfl
@[simp] theorem clearStack_coll (s : State) : (clearStack s).coll = s.coll := rfl
@[simp] theorem clearStack_cancelReq (s : State) : (clearStack s).cancelReq = s.cancelReq := rfl
@[simp] theorem clearStack_err (s : State) : (clearStack s).err = s.err := rfl
@[simp] theorem clearStack_isocode (s : State) : (clearStack s).isocode = s.isocode := rfl
@[simp] theorem clearStack_stk (s : State) : (clearStack s).stk = [] := rfl
@[simp] theorem clearStack_rounds (s : State) : (clearStack s).rounds = s.rounds := rfl
@[simp] theorem clearStack_tagcnt (s : State) : (clearStack s).tagcnt = s.tagcnt := rfl
@[simp] theorem clearStack_tags (s : State) : (clearStack s).tags = s.tags := rfl
@[simp] theorem clearStack_tagOut (s : State) : (clearStack s).tagOut = s.tagOut := rfl
@[simp] theorem clearStack_link (s : State) : (clearStack s).link = s.link := rfl
@[simp] theorem clearStack_rx (s : State) : (clearStack s).rx = s.rx := rfl
@[simp] theorem clearStack_rxLimits (s : State) : (clearStack s).rxLimits = s.rxLimits := rfl
@[simp] theorem clearStack_inputs (s : State) : (clearStack s).inputs = s.inputs := rfl
@[simp] theorem clearStack_reply (s : State) : (clearStack s).reply = s.reply := rfl
@[simp] theorem clearStack_params (s : State) : (clearStack s).params = s.params := rfl
@[simp] theorem clearStack_draws (s : State) : (clearStack s).draws = s.draws := rfl

@[simp] theorem forgetRx_st (s : State) : s.forgetRx.st = s.st := rfl
@[simp] theorem forgetRx_cur (s : State) : s.forgetRx.cur = s.cur := rfl
@[simp] theorem forgetRx_txb (s : State) : s.forgetRx.txb = s.txb := rfl
@[simp] theorem forgetRx_txlen (s : State) : s.forgetRx.txlen = s.txlen := rfl
@[simp] theorem forgetRx_rxb (s : State) : s.forgetRx.rxb = freeBuf s.draws := rfl
@[simp] theorem forgetRx_rxlen (s : State) : s.forgetRx.rxlen = Config.freeByte s.draws 255 := rfl
@[simp] theorem forgetRx_f (s : State) : s.forgetRx.f = freeFields s.draws := rfl
@[simp] theorem forgetRx_valid (s : State) : s.forgetRx.valid = s.valid := rfl
@[simp] theorem forgetRx_coll (s : State) : s.forgetRx.coll = s.coll := rfl
@[simp] theorem forgetRx_cancelReq (s : State) : s.forgetRx.cancelReq = s.cancelReq := rfl
@[simp] theorem forgetRx_err (s : State) : s.forgetRx.err = s.err := rfl
@[simp] theorem forgetRx_isocode (s : State) : s.forgetRx.isocode = s.isocode := rfl
@[simp] theorem forgetRx_stk (s : State) : s.forgetRx.stk = s.stk := rfl
@[simp] theorem forgetRx_rounds (s : State) : s.forgetRx.rounds = s.rounds := rfl
@[simp] theorem forgetRx_tagcnt (s : State) : s.forgetRx.tagcnt = s.tagcnt := rfl
@[simp] theorem forgetRx_tags (s : State) : s.forgetRx.tags = s.tags := rfl
@[simp] theorem forgetRx_tagOut (s : State) : s.forgetRx.tagOut = s.tagOut := rfl
@[simp] theorem forgetRx_link (s : State) : s.forgetRx.link = s.link := rfl
@[simp] theorem forgetRx_rx (s : State) : s.forgetRx.rx = s.rx := rfl
@[simp] theorem forgetRx_rxLimits (s : State) : s.forgetRx.rxLimits = s.rxLimits := rfl
@[simp] theorem forgetRx_inputs (s : State) : s.forgetRx.inputs = s.inputs := rfl
@[simp] theorem forgetRx_reply (s : State) : s.forgetRx.reply = s.reply := rfl
@[simp] theorem forgetRx_params (s : State) : s.forgetRx.params = s.params := rfl
@[simp] theorem forgetRx_draws (s : State) : s.forgetRx.draws = s.draws + 1 := rfl

@[simp] theorem latchRx_st (frame : List Byte) (r : FieldRegs) (s : State) : (s.latchRx frame r).st = s.st := rfl
@[simp] theorem latchRx_cur (frame : List Byte) (r : FieldRegs) (s : State) : (s.latchRx frame r).cur = s.cur := rfl
@[simp] theorem latchRx_txb (frame : List Byte) (r : FieldRegs) (s : State) : (s.latchRx frame r).txb = s.txb := rfl
@[simp] theorem latchRx_txlen (frame : List Byte) (r : FieldRegs) (s : State) : (s.latchRx frame r).txlen = s.txlen := rfl
@[simp] theorem latchRx_rxb (frame : List Byte) (r : FieldRegs) (s : State) : (s.latchRx frame r).rxb = overlay frame (freeBuf s.draws) := rfl
@[simp] theorem latchRx_rxlen (frame : List Byte) (r : FieldRegs) (s : State) : (s.latchRx frame r).rxlen = BitVec.ofNat 8 frame.length := rfl
@[simp] theorem latchRx_f (frame : List Byte) (r : FieldRegs) (s : State) : (s.latchRx frame r).f = r := rfl
@[simp] theorem latchRx_valid (frame : List Byte) (r : FieldRegs) (s : State) : (s.latchRx frame r).valid = s.valid := rfl
@[simp] theorem latchRx_coll (frame : List Byte) (r : FieldRegs) (s : State) : (s.latchRx frame r).coll = s.coll := rfl
@[simp] theorem latchRx_cancelReq (frame : List Byte) (r : FieldRegs) (s : State) : (s.latchRx frame r).cancelReq = s.cancelReq := rfl
@[simp] theorem latchRx_err (frame : List Byte) (r : FieldRegs) (s : State) : (s.latchRx frame r).err = s.err := rfl
@[simp] theorem latchRx_isocode (frame : List Byte) (r : FieldRegs) (s : State) : (s.latchRx frame r).isocode = s.isocode := rfl
@[simp] theorem latchRx_stk (frame : List Byte) (r : FieldRegs) (s : State) : (s.latchRx frame r).stk = s.stk := rfl
@[simp] theorem latchRx_rounds (frame : List Byte) (r : FieldRegs) (s : State) : (s.latchRx frame r).rounds = s.rounds := rfl
@[simp] theorem latchRx_tagcnt (frame : List Byte) (r : FieldRegs) (s : State) : (s.latchRx frame r).tagcnt = s.tagcnt := rfl
@[simp] theorem latchRx_tags (frame : List Byte) (r : FieldRegs) (s : State) : (s.latchRx frame r).tags = s.tags := rfl
@[simp] theorem latchRx_tagOut (frame : List Byte) (r : FieldRegs) (s : State) : (s.latchRx frame r).tagOut = s.tagOut := rfl
@[simp] theorem latchRx_link (frame : List Byte) (r : FieldRegs) (s : State) : (s.latchRx frame r).link = s.link := rfl
@[simp] theorem latchRx_rx (frame : List Byte) (r : FieldRegs) (s : State) : (s.latchRx frame r).rx = s.rx := rfl
@[simp] theorem latchRx_rxLimits (frame : List Byte) (r : FieldRegs) (s : State) : (s.latchRx frame r).rxLimits = s.rxLimits := rfl
@[simp] theorem latchRx_inputs (frame : List Byte) (r : FieldRegs) (s : State) : (s.latchRx frame r).inputs = s.inputs := rfl
@[simp] theorem latchRx_reply (frame : List Byte) (r : FieldRegs) (s : State) : (s.latchRx frame r).reply = s.reply := rfl
@[simp] theorem latchRx_params (frame : List Byte) (r : FieldRegs) (s : State) : (s.latchRx frame r).params = s.params := rfl
@[simp] theorem latchRx_draws (frame : List Byte) (r : FieldRegs) (s : State) : (s.latchRx frame r).draws = s.draws + 1 := rfl

@[simp] theorem sessionReset_st (s : State) : (sessionReset s).st = s.st := rfl
@[simp] theorem sessionReset_cur (s : State) : (sessionReset s).cur = .empty := rfl
@[simp] theorem sessionReset_txb (s : State) : (sessionReset s).txb = s.txb := rfl
@[simp] theorem sessionReset_txlen (s : State) : (sessionReset s).txlen = s.txlen := rfl
@[simp] theorem sessionReset_rxb (s : State) : (sessionReset s).rxb = s.rxb := rfl
@[simp] theorem sessionReset_rxlen (s : State) : (sessionReset s).rxlen = s.rxlen := rfl
@[simp] theorem sessionReset_f (s : State) : (sessionReset s).f = s.f := rfl
@[simp] theorem sessionReset_valid (s : State) : (sessionReset s).valid = s.valid := rfl
@[simp] theorem sessionReset_coll (s : State) : (sessionReset s).coll = s.coll := rfl
@[simp] theorem sessionReset_cancelReq (s : State) : (sessionReset s).cancelReq = false := rfl
@[simp] theorem sessionReset_err (s : State) : (sessionReset s).err = .none := rfl
@[simp] theorem sessionReset_isocode (s : State) : (sessionReset s).isocode = 0 := rfl
@[simp] theorem sessionReset_stk (s : State) : (sessionReset s).stk = [] := rfl
@[simp] theorem sessionReset_rounds (s : State) : (sessionReset s).rounds = 0 := rfl
@[simp] theorem sessionReset_tagcnt (s : State) : (sessionReset s).tagcnt = 0 := rfl
@[simp] theorem sessionReset_tags (s : State) : (sessionReset s).tags = [] := rfl
@[simp] theorem sessionReset_tagOut (s : State) : (sessionReset s).tagOut = s.tagOut := rfl
@[simp] theorem sessionReset_link (s : State) : (sessionReset s).link = s.link := rfl
@[simp] theorem sessionReset_rx (s : State) : (sessionReset s).rx = s.rx := rfl
@[simp] theorem sessionReset_rxLimits (s : State) : (sessionReset s).rxLimits = s.rxLimits := rfl
@[simp] theorem sessionReset_inputs (s : State) : (sessionReset s).inputs = s.inputs := rfl
@[simp] theorem sessionReset_reply (s : State) : (sessionReset s).reply = s.reply := rfl
@[simp] theorem sessionReset_params (s : State) : (sessionReset s).params = s.params := rfl
@[simp] theorem sessionReset_draws (s : State) : (sessionReset s).draws = s.draws := rfl

@[simp] theorem hardReset_st (s : State) : (hardReset s).st = .idle := rfl
@[simp] theorem hardReset_cancelReq (s : State) : (hardReset s).cancelReq = false := rfl
@[simp] theorem hardReset_err (s : State) : (hardReset s).err = .none := rfl
@[simp] theorem hardReset_isocode (s : State) : (hardReset s).isocode = 0 := rfl
@[simp] theorem hardReset_stk (s : State) : (hardReset s).stk = [] := rfl
@[simp] theorem hardReset_rounds (s : State) : (hardReset s).rounds = 0 := rfl
@[simp] theorem hardReset_tagcnt (s : State) : (hardReset s).tagcnt = 0 := rfl
@[simp] theorem hardReset_tags (s : State) : (hardReset s).tags = [] := rfl
@[simp] theorem hardReset_tagOut (s : State) : (hardReset s).tagOut = s.tagOut := rfl
@[simp] theorem hardReset_link (s : State) : (hardReset s).link = s.link := rfl
@[simp] theorem hardReset_rx (s : State) : (hardReset s).rx = s.rx := rfl
@[simp] theorem hardReset_rxLimits (s : State) : (hardReset s).rxLimits = s.rxLimits := rfl
@[simp] theorem hardReset_inputs (s : State) : (hardReset s).inputs = s.inputs := rfl
@[simp] theorem hardReset_reply (s : State) : (hardReset s).reply = .none := rfl
@[simp] theorem hardReset_params (s : State) : (hardReset s).params = s.params := rfl
@[simp] theorem hardReset_draws (s : State) : (hardReset s).draws = s.draws + 1 := rfl

@[simp] theorem setRx_st (s : State) (b : Buf) (len : Byte) (f : FieldRegs) (n : Nat) : (s.setRx b len f n).st = s.st := rfl
@[simp] theorem setRx_cur (s : State) (b : Buf) (len : Byte) (f : FieldRegs) (n : Nat) : (s.setRx b len f n).cur = s.cur := rfl
@[simp] theorem setRx_txb (s : State) (b : Buf) (len : Byte) (f : FieldRegs) (n : Nat) : (s.setRx b len f n).txb = s.txb := rfl
@[simp] theorem setRx_txlen (s : State) (b : Buf) (len : Byte) (f : FieldRegs) (n : Nat) : (s.setRx b len f n).txlen = s.txlen := rfl
@[simp] theorem setRx_rxb (s : State) (b : Buf) (len : Byte) (f : FieldRegs) (n : Nat) : (s.setRx b len f n).rxb = b := rfl
@[simp] theorem setRx_rxlen (s : State) (b : Buf) (len : Byte) (f : FieldRegs) (n : Nat) : (s.setRx b len f n).rxlen = len := rfl
@[simp] theorem setRx_f (s : State) (b : Buf) (len : Byte) (f : FieldRegs) (n : Nat) : (s.setRx b len f n).f = f := rfl
@[simp] theorem setRx_valid (s : State) (b : Buf) (len : Byte) (f : FieldRegs) (n : Nat) : (s.setRx b len f n).valid = s.valid := rfl
@[simp] theorem setRx_coll (s : State) (b : Buf) (len : Byte) (f : FieldRegs) (n : Nat) : (s.setRx b len f n).coll = s.coll := rfl
@[simp] theorem setRx_cancelReq (s : State) (b : Buf) (len : Byte) (f : FieldRegs) (n : Nat) : (s.setRx b len f n).cancelReq = s.cancelReq := rfl
@[simp] theorem setRx_err (s : State) (b : Buf) (len : Byte) (f : FieldRegs) (n : Nat) : (s.setRx b len f n).err = s.err := rfl
@[simp] theorem setRx_isocode (s : State) (b : Buf) (len : Byte) (f : FieldRegs) (n : Nat) : (s.setRx b len f n).isocode = s.isocode := rfl
@[simp] theorem setRx_stk (s : State) (b : Buf) (len : Byte) (f : FieldRegs) (n : Nat) : (s.setRx b len f n).stk = s.stk := rfl
@[simp] theorem setRx_rounds (s : State) (b : Buf) (len : Byte) (f : FieldRegs) (n : Nat) : (s.setRx b len f n).rounds = s.rounds := rfl
@[simp] theorem setRx_tagcnt (s : State) (b : Buf) (len : Byte) (f : FieldRegs) (n : Nat) : (s.setRx b len f n).tagcnt = s.tagcnt := rfl
@[simp] theorem setRx_tags (s : State) (b : Buf) (len : Byte) (f : FieldRegs) (n : Nat) : (s.setRx b len f n).tags = s.tags := rfl
@[simp] theorem setRx_tagOut (s : State) (b : Buf) (len : Byte) (f : FieldRegs) (n : Nat) : (s.setRx b len f n).tagOut = s.tagOut := rfl
@[simp] theorem setRx_link (s : State) (b : Buf) (len : Byte) (f : FieldRegs) (n : Nat) : (s.setRx b len f n).link = s.link := rfl
@[simp] theorem setRx_rx (s : State) (b : Buf) (len : Byte) (f : FieldRegs) (n : Nat) : (s.setRx b len f n).rx = s.rx := rfl
@[simp] theorem setRx_rxLimits (s : State) (b : Buf) (len : Byte) (f : FieldRegs) (n : Nat) : (s.setRx b len f n).rxLimits = s.rxLimits := rfl
@[simp] theorem setRx_inputs (s : State) (b : Buf) (len : Byte) (f : FieldRegs) (n : Nat) : (s.setRx b len f n).inputs = s.inputs := rfl
@[simp] theorem setRx_reply (s : State) (b : Buf) (len : Byte) (f : FieldRegs) (n : Nat) : (s.setRx b len f n).reply = s.reply := rfl
@[simp] theorem setRx_params (s : State) (b : Buf) (len : Byte) (f : FieldRegs) (n : Nat) : (s.setRx b len f n).params = s.params := rfl
@[simp] theorem setRx_draws (s : State) (b : Buf) (len : Byte) (f : FieldRegs) (n : Nat) : (s.setRx b len f n).draws = n := rfl

@[simp] theorem memRead_st (n : Nat) (s : State) : (memRead n s).2.st = s.st := rfl
@[simp] theorem memRead_cur (n : Nat) (s : State) : (memRead n s).2.cur = s.cur := rfl
@[simp] theorem memRead_txb (n : Nat) (s : State) : (memRead n s).2.txb = s.txb := rfl
@[simp] theorem memRead_txlen (n : Nat) (s : State) : (memRead n s).2.txlen = s.txlen := rfl
@[simp] theorem memRead_rxb (n : Nat) (s : State) : (memRead n s).2.rxb = s.rxb := rfl
@[simp] theorem memRead_rxlen (n : Nat) (s : State) : (memRead n s).2.rxlen = s.rxlen := rfl
@[simp] theorem memRead_f (n : Nat) (s : State) : (memRead n s).2.f = s.f := rfl
@[simp] theorem memRead_valid (n : Nat) (s : State) : (memRead n s).2.valid = s.valid := rfl
@[simp] theorem memRead_coll (n : Nat) (s : State) : (memRead n s).2.coll = s.coll := rfl
@[simp] theorem memRead_cancelReq (n : Nat) (s : State) : (memRead n s).2.cancelReq = s.cancelReq := rfl
@[simp] theorem memRead_err (n : Nat) (s : State) : (memRead n s).2.err = s.err := rfl
@[simp] theorem memRead_isocode (n : Nat) (s : State) : (memRead n s).2.isocode = s.isocode := rfl
@[simp] theorem memRead_stk (n : Nat) (s : State) : (memRead n s).2.stk = s.stk := rfl
@[simp] theorem memRead_rounds (n : Nat) (s : State) : (memRead n s).2.rounds = s.rounds := rfl
@[simp] theorem memRead_tagcnt (n : Nat) (s : State) : (memRead n s).2.tagcnt = s.tagcnt := rfl
@[simp] theorem memRead_tags (n : Nat) (s : State) : (memRead n s).2.tags = s.tags := rfl
@[simp] theorem memRead_tagOut (n : Nat) (s : State) : (memRead n s).2.tagOut = s.tagOut := rfl
@[simp] theorem memRead_link (n : Nat) (s : State) : (memRead n s).2.link = s.link ++ [.read n (s.rx.take (min n (s.rxLimits.headD n)))] := rfl
@[simp] theorem memRead_rx (n : Nat) (s : State) : (memRead n s).2.rx = s.rx.drop (s.rx.take (min n (s.rxLimits.headD n))).length := rfl
@[simp] theorem memRead_rxLimits (n : Nat) (s : State) : (memRead n s).2.rxLimits = s.rxLimits.tail := rfl
@[simp] theorem memRead_inputs (n : Nat) (s : State) : (memRead n s).2.inputs = s.inputs := rfl
@[simp] theorem memRead_reply (n : Nat) (s : State) : (memRead n s).2.reply = s.reply := rfl
@[simp] theorem memRead_params (n : Nat) (s : State) : (memRead n s).2.params = s.params := rfl
@[simp] theorem memRead_draws (n : Nat) (s : State) : (memRead n s).2.draws = s.draws := rfl

end Sys2Proof.Machine
end

