-- ==== Sys2Proof/Laws/Ops.lean ====
section
/-! SUPPORT. One lemma per shared operation: what buffers, mask registers, reads and the stack operations do. -/

namespace Sys2Proof.Machine

/-! ### Buffers -/

theorem overlay_toList (f : List Byte) (b : Buf) :
    (overlay f b).toList = f.take 255 ++ b.toList.drop f.length := rfl

/-- A byte of an overlaid buffer: the frame's where it has one, the buffer's elsewhere. -/
theorem overlay_getElem (f : List Byte) (b : Buf) (i : Nat) (h : i < 255) :
    (overlay f b)[i] = (f[i]?).getD b[i] := by
  simp only [overlay, Vector.getElem_mk, List.getElem_toArray]
  by_cases hf : i < f.length
  · rw [List.getElem_append_left (by simp; omega)]; simp [hf]
  · rw [List.getElem_append_right (by simp; omega)]
    simp only [not_lt] at hf
    simp [List.getElem?_eq_none hf]
    congr 1
    rw [Nat.min_eq_right (by omega)]; omega

/-- A frame that fits is what its overlay begins with. -/
theorem overlay_take (f : List Byte) (b : Buf) (h : f.length ≤ 255) : (overlay f b).toList.take f.length = f := by
  rw [overlay_toList, List.take_of_length_le h, List.take_left]

/-! ### Masks in registers -/

theorem ceil8_le (n : Nat) (h : n ≤ 64) : ceil8 n ≤ 8 := by unfold ceil8; omega

theorem padBytes_toList (b : List Byte) : (padBytes b).toList = b.take 8 ++ List.replicate (8 - b.length) 0 := rfl

/-- A mask of at most 64 bits with its minimal byte count survives the register form. -/
theorem maskOfReg_maskToReg (m : Mask) (hl : m.len ≤ 64) (hb : m.bytes.length = ceil8 m.len) :
    maskOfReg (maskToReg m) = m := by
  have h8 : m.bytes.length ≤ 8 := hb ▸ ceil8_le _ hl
  have hlen : (BitVec.ofNat 7 m.len).toNat = m.len := by simp; omega
  cases m with
  | mk n bs =>
    simp only at hl hb h8 hlen
    simp only [maskOfReg, maskToReg, hlen, padBytes_toList, ← hb, List.take_of_length_le h8, List.take_left]

theorem shaped_iff (m : Mask) :
    m.shaped = true ↔ m.len % 4 = 0 ∧ m.len ≤ 64 ∧ m.bytes.length = ceil8 m.len := by
  simp only [Mask.shaped, Bool.and_eq_true, decide_eq_true_eq]
  simp only [Config.grow, Config.maskMax, and_assoc]

theorem wellFormed_iff (m : Mask) : m.wellFormed = true ↔ m.shaped = true ∧ m.canonical = true := by
  simp [Mask.wellFormed]

/-- A well-formed mask in register form is an ok register, and comes back from it. -/
theorem maskToReg_ok (m : Mask) (h : m.wellFormed = true) :
    (maskToReg m).ok = true ∧ maskOfReg (maskToReg m) = m := by
  obtain ⟨hs, -⟩ := (wellFormed_iff m).1 h
  obtain ⟨-, hl, hb⟩ := (shaped_iff m).1 hs
  have e := maskOfReg_maskToReg m hl hb
  simp [MaskReg.ok, e, h]

theorem ok_iff (r : MaskReg) : r.ok = true ↔ (maskOfReg r).wellFormed = true ∧ maskToReg (maskOfReg r) = r := by
  simp [MaskReg.ok]

theorem maskOfReg_len (r : MaskReg) : (maskOfReg r).len = r.len.toNat := rfl

theorem empty_ok : MaskReg.empty.ok = true := by decide

theorem maskOfReg_empty : maskOfReg MaskReg.empty = ⟨0, []⟩ := by decide

/-- The level of a mask in register form. -/
theorem maskToReg_level (m : Mask) (h : m.len ≤ 64) : (maskToReg m).level = m.len / 4 := by
  simp only [MaskReg.level, maskToReg, BitVec.toNat_ofNat]; omega

/-! ### Reads -/

theorem memRead_fst (n : Nat) (s : State) : (memRead n s).1 = s.rx.take (arrives n s.rxLimits s.rx) := by
  simp only [memRead, arrives]
  rw [List.take_eq_take_iff]; omega

theorem memRead_fst_length (n : Nat) (s : State) : (memRead n s).1.length = arrives n s.rxLimits s.rx := by
  rw [memRead_fst, List.length_take]; unfold arrives; omega

/-- What a read returns and leaves: `arrives` bytes of the stream, the rest of it, one limit used, one call recorded. -/
theorem memRead_eq (n : Nat) (s : State) :
    memRead n s = (s.rx.take (arrives n s.rxLimits s.rx),
      { s with rx := s.rx.drop (arrives n s.rxLimits s.rx), rxLimits := s.rxLimits.tail
               link := s.link ++ [.read n (s.rx.take (arrives n s.rxLimits s.rx))] }) := by
  have h1 := memRead_fst n s
  have h2 := memRead_fst_length n s
  simp only [memRead] at h1 h2 ⊢
  rw [h2, h1]

theorem arrives_le (n : Nat) (l : List Nat) (rx : List Byte) : arrives n l rx ≤ n := by unfold arrives; omega

/-- A read that is not cut and finds enough bytes returns what it asked for. -/
theorem arrives_full (n : Nat) (l : List Nat) (rx : List Byte) (h : NotCut n l) (hr : n ≤ rx.length) :
    arrives n l rx = n := by unfold arrives; unfold NotCut at h; omega

/-- A read that got all it asked for was not cut short. -/
theorem notCut_of_arrives {n : Nat} {l : List Nat} {rx : List Byte} (h : arrives n l rx = n) : NotCut n l := by
  unfold NotCut; unfold arrives at h; omega

/-! ### The stack -/

/-- PUSH, when it is not refused, appends the mask in register form to a stack that was not full. -/
theorem pushMask_eq_some {m : Mask} {s t : State} (h : pushMask m s = some t) :
    s.stk.length < 256 ∧ m.wellFormed = true ∧ t = { s with stk := s.stk ++ [maskToReg m] } := by
  unfold pushMask Config.stackDepth at h
  split at h
  · cases h
  · split at h
    · cases h; exact ⟨by omega, ‹_›, rfl⟩
    · cases h

theorem pushMask_some (m : Mask) (s : State) (hs : s.stk.length < 256) (hm : m.wellFormed = true) :
    pushMask m s = some { s with stk := s.stk ++ [maskToReg m] } := by
  unfold pushMask Config.stackDepth
  rw [if_neg (by omega), if_pos hm]

theorem pushMask_none (m : Mask) (s : State) (h : 256 ≤ s.stk.length ∨ m.wellFormed = false) : pushMask m s = none := by
  unfold pushMask Config.stackDepth
  rcases h with h | h
  · rw [if_pos h]
  · split
    · rfl
    · rw [h]; rfl

/-- POP, when it is not refused, takes the last entry off. -/
theorem popMask_eq_some {s t : State} {m : Mask} (h : popMask s = some (m, t)) :
    ∃ rest r, s.stk = rest ++ [r] ∧ m = maskOfReg r ∧ t = { s with stk := rest } := by
  unfold popMask at h
  cases hr : s.stk.getLast? with
  | none => rw [hr] at h; cases h
  | some r =>
    rw [hr] at h
    obtain ⟨rest, e⟩ := List.getLast?_eq_some_iff.1 hr
    cases h
    exact ⟨rest, r, e, rfl, by rw [e, List.dropLast_concat]⟩

theorem popMask_append (s : State) (rest : List MaskReg) (r : MaskReg) (h : s.stk = rest ++ [r]) :
    popMask s = some (maskOfReg r, { s with stk := rest }) := by
  unfold popMask
  rw [h]
  simp

theorem popMask_nil (s : State) (h : s.stk = []) : popMask s = none := by
  unfold popMask; rw [h]; rfl

end Sys2Proof.Machine
end

