-- ==== Sys2Proof/Laws/Codec.lean ====
section
/-! SUPPORT. The checksum, the frames ENCODE builds and VERIFY accepts, and the cases of a reception. -/

namespace Sys2Proof.Machine

@[simp] theorem xor8_nil : xor8 [] = 0 := rfl
@[simp] theorem xor8_cons (b : Byte) (t : List Byte) : xor8 (b :: t) = b ^^^ xor8 t := rfl

theorem xor8_append (s t : List Byte) : xor8 (s ++ t) = xor8 s ^^^ xor8 t := by
  induction s with
  | nil => simp
  | cons b s ih => simp [ih, BitVec.xor_assoc]

/-- Changing one byte changes the XOR of all by the same bits. -/
theorem xor8_set (l : List Byte) (i : Nat) (d : Byte) (h : i < l.length) : xor8 (l.set i (l.getD i 0 ^^^ d)) = xor8 l ^^^ d := by
  induction l generalizing i with
  | nil => simp at h
  | cons a l ih =>
    cases i with
    | zero => simp; rw [BitVec.xor_assoc, BitVec.xor_assoc, BitVec.xor_comm d]
    | succ i =>
      simp at h
      rw [List.getD_cons_succ, List.set_cons_succ, xor8_cons, ih i h, xor8_cons, BitVec.xor_assoc]

theorem foldl_xor (l : List Byte) (a : Byte) : l.foldl (fun x y => x ^^^ y) a = a ^^^ xor8 l := by
  induction l generalizing a with
  | nil => simp
  | cons b l ih => simp [ih, BitVec.xor_assoc]

theorem xor_ff (c : Byte) : c ^^^ 0xFF = ~~~c := by
  have e : (0xFF : Byte) = BitVec.allOnes 8 := rfl
  rw [e, BitVec.xor_allOnes]

/-- VERIFY accepts exactly the sequences whose pair is right. -/
theorem verifyFrame_iff (f : List Byte) : verifyFrame f = true ↔ PairRight f := by
  simp [verifyFrame, PairRight, Config.csumInv]

theorem withPair_length (h : List Byte) : (withPair h).length = h.length + 2 := by simp [withPair]

theorem withPair_pairRight (h : List Byte) : PairRight (withPair h) := by
  unfold PairRight
  rw [withPair_length]
  simp [withPair, List.getD_eq_getElem?_getD]

/-- ENCODE builds the frame of R80 for every payload it accepts. -/
theorem encodeFrame_eq (p : Config.Params) (cmd : Byte) (payload : List Byte) (h : payload.length ≤ 247) :
    encodeFrame p.txFlags cmd payload = some (frameOf p cmd payload) := by
  have hd : encodeDomain payload = true := decide_eq_true (by unfold Config.maxPayload; omega)
  unfold encodeFrame
  rw [if_pos hd]
  rfl

theorem encodeFrame_none (fl cmd : Byte) (payload : List Byte) (h : 247 < payload.length) :
    encodeFrame fl cmd payload = none := by
  have hd : encodeDomain payload = false := decide_eq_false (by unfold Config.maxPayload; omega)
  unfold encodeFrame
  rw [hd]; rfl

theorem frameOf_length (p : Config.Params) (cmd : Byte) (payload : List Byte) :
    (frameOf p cmd payload).length = payload.length + 8 := by simp [frameOf, withPair]

theorem frameOf_isFrame (p : Config.Params) (cmd : Byte) (payload : List Byte) (h : payload.length ≤ 247) :
    IsFrame (frameOf p cmd payload) := by
  refine ⟨by rw [frameOf_length]; omega, by rw [frameOf_length]; omega, ?_⟩
  rw [frameOf_length]
  rfl

theorem frameOf_pairRight (p : Config.Params) (cmd : Byte) (payload : List Byte) : PairRight (frameOf p cmd payload) :=
  withPair_pairRight _

/-- The length byte of a complete frame, as a number. -/
theorem IsFrame.lenByte {f : List Byte} (h : IsFrame f) : (f.getD 1 0).toNat = f.length := by
  rw [h.2.2, BitVec.toNat_ofNat]
  exact Nat.mod_eq_of_lt (by have := h.2.1; omega)

/-- What a reception can do, once: a header that did not arrive, a length below 8, a body that did not arrive, a pair that
is not right, or a frame. -/
theorem receiveFrame_cases (s : State) :
    (arrives 2 s.rxLimits s.rx < 2 ∧
      receiveFrame s = (.error .transportTimeout, (memRead 2 s).2.forgetRx)) ∨
    ∃ sof len body, s.rx = sof :: len :: body ∧ arrives 2 s.rxLimits s.rx = 2 ∧
      ((len.toNat < 8 ∧ receiveFrame s = (.error .malformedFrame, (memRead 2 s).2.forgetRx)) ∨
       (8 ≤ len.toNat ∧
        ((arrives (len.toNat - 2) s.rxLimits.tail body < len.toNat - 2 ∧
            receiveFrame s = (.error .transportTimeout, (memRead (len.toNat - 2) (memRead 2 s).2).2.forgetRx)) ∨
         (arrives (len.toNat - 2) s.rxLimits.tail body = len.toNat - 2 ∧
          ∃ f rest, f ++ rest = s.rx ∧ body = f.drop 2 ++ rest ∧ f.length = len.toNat ∧ IsFrame f ∧
            ((¬ PairRight f ∧
                receiveFrame s = (.error .checksumMismatch, (memRead (len.toNat - 2) (memRead 2 s).2).2.forgetRx)) ∨
             (PairRight f ∧ receiveFrame s = (.ok (fieldsOf f),
                (memRead (len.toNat - 2) (memRead 2 s).2).2.latchRx f (fieldsOf f).regs))))))) := by
  by_cases h2 : arrives 2 s.rxLimits s.rx < 2
  · left
    refine ⟨h2, ?_⟩
    have hl : (memRead 2 s).1.length < 2 := by rw [memRead_fst_length]; exact h2
    simp only [receiveFrame]
    rw [if_pos hl]
  · right
    have h2' : arrives 2 s.rxLimits s.rx = 2 := by have := arrives_le 2 s.rxLimits s.rx; omega
    have hrx : 2 ≤ s.rx.length := by unfold arrives at h2'; omega
    obtain ⟨sof, len, body, hr⟩ : ∃ sof len body, s.rx = sof :: len :: body := by
      match hm : s.rx with
      | [] => rw [hm] at hrx; simp at hrx
      | [_] => rw [hm] at hrx; simp at hrx
      | a :: b :: t => exact ⟨a, b, t, rfl⟩
    refine ⟨sof, len, body, hr, h2', ?_⟩
    have hl : ¬ (memRead 2 s).1.length < 2 := by rw [memRead_fst_length]; omega
    have hh : (memRead 2 s).1 = [sof, len] := by rw [memRead_fst, h2', hr]; rfl
    have hrx2 : (memRead 2 s).2.rx = body := by rw [memRead_eq, h2', hr]; rfl
    have hlim : (memRead 2 s).2.rxLimits = s.rxLimits.tail := rfl
    have hgd : ((memRead 2 s).1.getD 1 0) = len := by rw [hh]; rfl
    by_cases h8 : len.toNat < 8
    · left
      refine ⟨h8, ?_⟩
      simp only [receiveFrame]
      rw [if_neg hl, if_pos (by rw [hgd]; exact h8)]
    · right
      refine ⟨by omega, ?_⟩
      have hbl : (memRead (len.toNat - 2) (memRead 2 s).2).1.length =
          arrives (len.toNat - 2) s.rxLimits.tail body := by rw [memRead_fst_length, hrx2, hlim]
      by_cases hb : arrives (len.toNat - 2) s.rxLimits.tail body < len.toNat - 2
      · left
        refine ⟨hb, ?_⟩
        simp only [receiveFrame]
        rw [if_neg hl, hgd, if_neg (by exact h8), if_pos (by rw [hbl]; exact hb)]
      · right
        have hb' : arrives (len.toNat - 2) s.rxLimits.tail body = len.toNat - 2 := by
          have := arrives_le (len.toNat - 2) s.rxLimits.tail body; omega
        have hbody : len.toNat - 2 ≤ body.length := by unfold arrives at hb'; omega
        have hread : (memRead (len.toNat - 2) (memRead 2 s).2).1 = body.take (len.toNat - 2) := by
          rw [memRead_fst, hrx2, hlim, hb']
        refine ⟨hb', [sof, len] ++ body.take (len.toNat - 2), body.drop (len.toNat - 2), ?_, ?_, ?_, ?_, ?_⟩
        · rw [hr]; simp
        · simp
        · simp [Nat.min_eq_left hbody]; omega
        · refine ⟨?_, ?_, ?_⟩
          · simp [Nat.min_eq_left hbody]; omega
          · have := len.isLt
            simp [Nat.min_eq_left hbody]; omega
          · have hlen : ([sof, len] ++ body.take (len.toNat - 2)).length = len.toNat := by
              simp [Nat.min_eq_left hbody]; omega
            rw [hlen]
            simp
        · by_cases hv : PairRight ([sof, len] ++ body.take (len.toNat - 2))
          · right
            refine ⟨hv, ?_⟩
            simp only [receiveFrame]
            rw [if_neg hl, hgd, if_neg (by exact h8), if_neg (by rw [hbl]; exact hb), hread, hh,
              if_pos ((verifyFrame_iff _).2 hv)]
          · left
            refine ⟨hv, ?_⟩
            have hv' : ¬ verifyFrame ([sof, len] ++ body.take (len.toNat - 2)) = true := fun h => hv ((verifyFrame_iff _).1 h)
            simp only [receiveFrame]
            rw [if_neg hl, hgd, if_neg (by exact h8), if_neg (by rw [hbl]; exact hb), hread, hh, if_neg hv']

end Sys2Proof.Machine
end

