-- ==== Sys2Proof/Laws/Interpreter.lean ====
section
/-! SUPPORT. What BUILDREQ, DERIVE and the flag scans compute. -/

namespace Sys2Proof.Machine

theorem buildRequest_eq (m : Mask) (h : m.shaped = true) :
    buildRequest m = some ([0x11, 0x07, 0x01, BitVec.ofNat 8 m.len] ++ m.bytes) := by
  unfold buildRequest; rw [if_pos h]; rfl

theorem buildRequest_none (m : Mask) (h : m.shaped = false) : buildRequest m = none := by
  unfold buildRequest; rw [h]; rfl

theorem deriveDomain_iff (m : Mask) (slot : Nat) :
    deriveDomain m slot = true ↔ m.wellFormed = true ∧ m.len ≤ 60 ∧ slot ≤ 15 := by
  unfold deriveDomain
  simp only [Bool.and_eq_true, decide_eq_true_eq]
  unfold Config.grow Config.maskMax Config.nSlots
  exact ⟨fun ⟨⟨a, b⟩, c⟩ => ⟨a, by omega, by omega⟩, fun ⟨a, b, c⟩ => ⟨⟨a, by omega⟩, by omega⟩⟩

theorem byte_shl4 (slot : Nat) : (BitVec.ofNat 8 slot : Byte) <<< 4 = BitVec.ofNat 8 (16 * slot) := by
  apply BitVec.eq_of_toNat_eq
  simp [Nat.shiftLeft_eq]
  omega

/-- DERIVE, on the operands it accepts, gives the mask of the colliding slot. -/
theorem deriveMask_eq (m : Mask) (slot : Nat) (hm : m.wellFormed = true) (hl : m.len ≤ 60) (hs : slot ≤ 15) :
    deriveMask m slot = some (childMask m slot) := by
  obtain ⟨hsh, -⟩ := (wellFormed_iff m).1 hm
  obtain ⟨h4, -, hb⟩ := (shaped_iff m).1 hsh
  have hd := (deriveDomain_iff m slot).2 ⟨hm, hl, hs⟩
  unfold ceil8 at hb
  unfold deriveMask childMask
  rw [if_pos hd]
  by_cases h8 : m.len % 8 = 0
  · simp only [if_pos h8, Config.grow]
    rw [List.take_of_length_le (by omega)]
  · have hlen : m.bytes.length = m.len / 8 + 1 := by omega
    simp only [if_neg h8, Config.grow]
    rw [byte_shl4 slot]
    have e1 : m.bytes.dropLast = m.bytes.take (m.len / 8) := by
      rw [List.dropLast_eq_take, hlen]; rfl
    have e2 : m.bytes.getLastD 0 = m.bytes.getD (m.len / 8) 0 := by
      rw [List.getLastD_eq_getLast?, List.getLast?_eq_getElem?, hlen, List.getD_eq_getElem?_getD]; rfl
    rw [e1, e2]

theorem deriveMask_none (m : Mask) (slot : Nat) (h : m.wellFormed = false ∨ 60 < m.len ∨ 15 < slot) :
    deriveMask m slot = none := by
  have hd : deriveDomain m slot = false := by
    rw [Bool.eq_false_iff, Ne, deriveDomain_iff]
    rintro ⟨a, b, c⟩
    rcases h with h | h | h
    · rw [a] at h; cases h
    · omega
    · omega
  unfold deriveMask; rw [hd]; rfl

/-- The high nibble of a byte below 16 is zero. -/
theorem shr4_eq_zero_iff (b : Byte) : b >>> 4 = 0 ↔ b.toNat < 16 := by
  rw [← BitVec.toNat_inj]
  simp [Nat.shiftRight_eq_div_pow]

theorem canonical_iff (m : Mask) : m.canonical = true ↔ (m.len % 8 = 4 → (m.bytes.getLastD 0).toNat < 16) := by
  unfold Mask.canonical
  simp only [Bool.or_eq_true, decide_eq_true_eq, shr4_eq_zero_iff]
  omega

theorem childMask_len (m : Mask) (slot : Nat) : (childMask m slot).len = m.len + 4 := by
  unfold childMask; split <;> rfl

/-- The mask of a colliding slot is well-formed. -/
theorem childMask_wellFormed (m : Mask) (slot : Nat) (hm : m.wellFormed = true) (hl : m.len ≤ 60) (hs : slot ≤ 15) :
    (childMask m slot).wellFormed = true := by
  obtain ⟨hsh, -⟩ := (wellFormed_iff m).1 hm
  obtain ⟨h4, -, hb⟩ := (shaped_iff m).1 hsh
  unfold ceil8 at hb
  refine (wellFormed_iff _).2 ⟨(shaped_iff _).2 ⟨by rw [childMask_len]; omega, by rw [childMask_len]; omega, ?_⟩,
    (canonical_iff _).2 ?_⟩
  · unfold childMask ceil8; split
    · simp [hb]; omega
    · simp [hb]; omega
  · rw [childMask_len]
    intro h
    have h0 : m.len % 8 = 0 := by omega
    unfold childMask
    rw [if_pos h0]
    simp
    omega

/-! ### Scans -/

theorem popcount16_eq_setBits (v : BitVec 16) : popcount16 v = setBits v := by
  unfold popcount16 setBits
  induction List.range 16 with
  | nil => rfl
  | cons a l ih => simp [List.countP_cons, ih]; cases v.getLsbD a <;> simp; omega

theorem setBits_le (v : BitVec 16) : setBits v ≤ 16 := by
  simpa [setBits] using List.countP_le_length (p := fun k => v.getLsbD k) (l := List.range 16)

theorem mem_vscan (v : BitVec 16) (k : Nat) : k ∈ vscan v ↔ k < 16 ∧ v.getLsbD k = true := by
  simp [vscan, Config.nSlots]

theorem vscan_length (v : BitVec 16) : (vscan v).length = setBits v := by
  simp [vscan, setBits, Config.nSlots, List.countP_eq_length_filter]

theorem mem_cscan (c : BitVec 16) (k : Nat) : k ∈ cscan c ↔ k < 16 ∧ c.getLsbD k = true := by
  simp only [cscan, List.mem_flatMap, List.mem_range, List.mem_append]
  constructor
  · rintro ⟨p, hp, h | h⟩
    · split at h
      · simp at h; subst h; exact ⟨by omega, ‹_›⟩
      · simp at h
    · split at h
      · simp at h; subst h; exact ⟨by omega, ‹_›⟩
      · simp at h
  · rintro ⟨hk, hc⟩
    by_cases h8 : k < 8
    · exact ⟨k, h8, .inl (by simp [hc])⟩
    · refine ⟨k - 8, by omega, .inr ?_⟩
      have : k - 8 + 8 = k := by omega
      simp [this, hc]

theorem cscan_length (c : BitVec 16) : (cscan c).length = setBits c := by
  have hl : ∀ p, ((if c.getLsbD p = true then [p] else []) : List Nat).length = (c.getLsbD p).toNat := by
    intro p; cases c.getLsbD p <;> rfl
  rw [← popcount16_eq_setBits]
  simp only [cscan, popcount16, List.length_flatMap, List.length_append, hl]
  simp only [List.range, List.range.loop, List.map_cons, List.map_nil, List.sum_cons, List.sum_nil, Nat.reduceAdd,
    Nat.zero_add]
  omega

/-- The slots CSCAN lists are slots. -/
theorem cscan_lt (c : BitVec 16) {k : Nat} (h : k ∈ cscan c) : k ≤ 15 := by
  have := ((mem_cscan c k).1 h).1; omega

/-- CSCAN lists nothing exactly where nothing collided. -/
theorem cscan_eq_nil_iff (c : BitVec 16) : cscan c = [] ↔ c = 0 := by
  rw [List.eq_nil_iff_forall_not_mem]
  constructor
  · intro h
    apply BitVec.eq_of_getLsbD_eq
    intro i hi
    have := h i
    rw [mem_cscan] at this
    cases hc : c.getLsbD i with
    | false => simp
    | true => exact absurd ⟨hi, hc⟩ this
  · rintro rfl k h
    rw [mem_cscan] at h
    simp at h

theorem flagField_eq (lo hi : Byte) : flagField lo hi = hi ++ lo := by
  unfold flagField
  apply BitVec.eq_of_getLsbD_eq
  intro i hi'
  simp only [BitVec.getLsbD_or, BitVec.getLsbD_setWidth, BitVec.truncate_eq_setWidth, BitVec.getLsbD_shiftLeft,
    BitVec.getLsbD_append]
  by_cases h8 : i < 8
  · simp [h8, hi']
  · simp [h8, hi']
    have : lo.getLsbD i = false := BitVec.getLsbD_of_ge lo i (by omega)
    simp [this]
    intro; omega

end Sys2Proof.Machine
end

