-- ==== Sys2Proof/Laws/Engine.lean ====
section
/-! SUPPORT. What SENDREQ and the pushes of COLLIDE do, what each micro-operation can answer, and what a step can be. -/

namespace Sys2Proof.Machine

/-- SENDREQ with a shaped CUR: the request frame in TXB and on the TX stream, its length, one more round. -/
theorem sendRequest_eq (s : State) (h : s.curMask.shaped = true) :
    sendRequest s = some { s with
      txb := overlay (requestOf s.params s.curMask) s.txb
      txlen := BitVec.ofNat 8 (12 + (s.cur.len.toNat + 7) / 8)
      link := s.link ++ [.write (requestOf s.params s.curMask)]
      rounds := s.rounds + 1 } := by
  obtain ⟨-, hl, hb⟩ := (shaped_iff _).1 h
  have hc := ceil8_le _ hl
  unfold sendRequest
  simp only [buildRequest_eq _ h]
  rw [encodeFrame_eq _ _ _ (by simp; omega)]
  have hlen : (requestOf s.params s.curMask).length = 12 + (s.cur.len.toNat + 7) / 8 := by
    rw [requestOf, frameOf_length]
    simp only [List.length_append, List.length_cons, List.length_nil, hb]
    unfold ceil8
    rw [show s.curMask.len = s.cur.len.toNat from rfl]
    omega
  rw [← hlen]
  rfl

theorem sendRequest_none (s : State) (h : s.curMask.shaped = false) : sendRequest s = none := by
  unfold sendRequest; rw [buildRequest_none _ h]

/-- SENDREQ is refused or does what `sendRequest_eq` says. -/
theorem sendRequest_eq_some {s t : State} (h : sendRequest s = some t) :
    s.curMask.shaped = true ∧ t = { s with
      txb := overlay (requestOf s.params s.curMask) s.txb
      txlen := BitVec.ofNat 8 (12 + (s.cur.len.toNat + 7) / 8)
      link := s.link ++ [.write (requestOf s.params s.curMask)]
      rounds := s.rounds + 1 } := by
  cases hs : s.curMask.shaped with
  | false => rw [sendRequest_none s hs] at h; cases h
  | true => rw [sendRequest_eq s hs] at h; cases h; exact ⟨rfl, rfl⟩

/-- The pushes of COLLIDE, where none is refused: the derived masks appended in the order of the slots. -/
theorem pushDerived_eq (m : Mask) (hm : m.wellFormed = true) (hl : m.len ≤ 60) (slots : List Nat) (s : State)
    (hs : ∀ k ∈ slots, k ≤ 15) (hd : s.stk.length + slots.length ≤ 256) :
    pushDerived m slots s =
      some { s with stk := s.stk ++ slots.map fun slot => maskToReg (childMask m slot) } := by
  induction slots generalizing s with
  | nil => simp [pushDerived]
  | cons a l ih =>
    simp only [List.length_cons] at hd
    have ha : a ≤ 15 := hs a (by simp)
    simp only [pushDerived, deriveMask_eq m a hm hl ha,
      pushMask_some _ s (by omega) (childMask_wellFormed m a hm hl ha)]
    rw [ih _ (fun k hk => hs k (by simp [hk])) (by simp; omega)]
    simp

/-- The pushes of COLLIDE change the stack only. -/
theorem pushDerived_stk {m : Mask} {slots : List Nat} {s t : State} (h : pushDerived m slots s = some t) :
    ∃ new, t = { s with stk := s.stk ++ new } ∧ (∀ r ∈ new, r.ok = true) ∧ t.stk.length ≤ max 256 s.stk.length := by
  induction slots generalizing s with
  | nil =>
    cases h
    exact ⟨[], by simp, by simp, by omega⟩
  | cons a l ih =>
    unfold pushDerived at h
    split at h
    · cases h
    · split at h
      · cases h
      · rename_i hp
        obtain ⟨hlt, hw, rfl⟩ := pushMask_eq_some hp
        obtain ⟨new, rfl, hok, hlen⟩ := ih h
        refine ⟨maskToReg _ :: new, by simp; rfl, ?_, ?_⟩
        · intro r hr
          rcases List.mem_cons.1 hr with rfl | hr
          · exact (maskToReg_ok _ hw).1
          · exact hok r hr
        · simp only [List.length_append, List.length_cons, List.length_nil] at hlen ⊢; omega

/-- A unit refuses inside the pushes of COLLIDE only on an ill-formed or too long CUR, a slot above 15, or a full stack. -/
theorem pushDerived_none (m : Mask) (slot : Nat) (slots : List Nat) (s : State)
    (h : m.wellFormed = false ∨ 60 < m.len ∨ 256 ≤ s.stk.length) : pushDerived m (slot :: slots) s = none := by
  unfold pushDerived
  by_cases hd : m.wellFormed = false ∨ 60 < m.len
  · rw [deriveMask_none m slot (by tauto)]
  · have hf : 256 ≤ s.stk.length := by tauto
    cases deriveMask m slot with
    | none => rfl
    | some d => simp only [pushMask_none d s (.inl hf)]

/-! ### What each micro-operation can answer -/

/-- RECV in RoundSent: RoundReceived with the latched frame, or Fatal with the error of the reception. -/
theorem execRecv_cases {s t : State} (hst : s.st = .roundSent) (h : execRecv s = .next t) :
    (∃ r d, receiveFrame s = (.ok r, d) ∧ t = { d with st := .roundReceived, reply := .none }) ∨
    ∃ e d, receiveFrame s = (.error e, d) ∧ t = d.raise e := by
  unfold execRecv at h
  rw [if_pos hst] at h
  split at h
  · cases h; exact .inl ⟨_, _, ‹_›, rfl⟩
  · cases h; exact .inr ⟨_, _, ‹_›, rfl⟩

/-- Two reads in a row. -/
theorem memRead_twice (n k : Nat) (s : State) :
    ∃ rx r1 r2, rx <:+ s.rx ∧ (memRead k (memRead n s).2).2 =
      { s with rx := rx, rxLimits := s.rxLimits.tail.tail, link := s.link ++ [.read n r1, .read k r2] } := by
  refine ⟨(memRead k (memRead n s).2).2.rx, (memRead n s).1, (memRead k (memRead n s).2).1,
    (List.drop_suffix _ _).trans (List.drop_suffix _ _), ?_⟩
  simp only [memRead, List.append_assoc, List.cons_append, List.nil_append]

/-- The error of a reception is one of three, and the state after it differs in the streams and in the forgotten receive
registers only. -/
theorem receiveFrame_error {s d : State} {e : Err} (h : receiveFrame s = (.error e, d)) :
    (e = .transportTimeout ∨ e = .malformedFrame ∨ e = .checksumMismatch) ∧
    ∃ rx limits reads, rx <:+ s.rx ∧ (∀ x ∈ reads, x.isWrite = false) ∧ reads ≠ [] ∧
      d = { s with rxb := freeBuf s.draws, rxlen := Config.freeByte s.draws 255, f := freeFields s.draws
                   draws := s.draws + 1, rx := rx, rxLimits := limits, link := s.link ++ reads } := by
  have one : ∃ rx limits reads, rx <:+ s.rx ∧ (∀ x ∈ reads, x.isWrite = false) ∧ reads ≠ [] ∧
      (memRead 2 s).2.forgetRx = { s with
        rxb := freeBuf s.draws, rxlen := Config.freeByte s.draws 255, f := freeFields s.draws
        draws := s.draws + 1, rx := rx, rxLimits := limits, link := s.link ++ reads } :=
    ⟨_, _, [.read 2 _], List.drop_suffix _ _, by simp [LinkEvent.isWrite], by simp, rfl⟩
  have two : ∀ k, ∃ rx limits reads, rx <:+ s.rx ∧ (∀ x ∈ reads, x.isWrite = false) ∧ reads ≠ [] ∧
      (memRead k (memRead 2 s).2).2.forgetRx = { s with
        rxb := freeBuf s.draws, rxlen := Config.freeByte s.draws 255, f := freeFields s.draws
        draws := s.draws + 1, rx := rx, rxLimits := limits, link := s.link ++ reads } := by
    intro k
    obtain ⟨rx, r1, r2, hs, e⟩ := memRead_twice 2 k s
    exact ⟨rx, _, [.read 2 r1, .read k r2], hs, by simp [LinkEvent.isWrite], by simp, by rw [e]; rfl⟩
  rcases receiveFrame_cases s with ⟨-, hr⟩ | ⟨sof, len, body, hrx, h2, ⟨-, hr⟩ | ⟨-, ⟨-, hr⟩ |
      ⟨-, f, rest, -, -, -, -, ⟨-, hr⟩ | ⟨-, hr⟩⟩⟩⟩ <;> rw [hr] at h <;> cases h
  · exact ⟨.inl rfl, one⟩
  · exact ⟨.inr (.inl rfl), one⟩
  · exact ⟨.inl rfl, two _⟩
  · exact ⟨.inr (.inr rfl), two _⟩

/-- ChecksumMismatch only for a whole frame whose pair is not right. -/
theorem receiveFrame_mismatch {s d : State} (h : receiveFrame s = (.error .checksumMismatch, d)) :
    ∃ f rest, IsFrame f ∧ ¬ PairRight f ∧ s.rx = f ++ rest ∧ NotCut 2 s.rxLimits ∧
      NotCut (f.length - 2) s.rxLimits.tail := by
  rcases receiveFrame_cases s with ⟨-, hr⟩ | ⟨sof, len, body, hrx, h2, ⟨-, hr⟩ | ⟨-, ⟨-, hr⟩ |
      ⟨hb, f, rest, hf, -, hlen, hif, ⟨hp, hr⟩ | ⟨-, hr⟩⟩⟩⟩ <;> rw [hr] at h <;> cases h
  exact ⟨f, rest, hif, hp, hf.symm, notCut_of_arrives h2, notCut_of_arrives (hlen ▸ hb)⟩

/-- A successful reception: a complete frame with a right pair, taken off the stream and latched. -/
theorem receiveFrame_ok {s d : State} {r : FieldRecord} (h : receiveFrame s = (.ok r, d)) :
    ∃ f rest limits, s.rx = f ++ rest ∧ IsFrame f ∧ PairRight f ∧ r = fieldsOf f ∧
      d = { s with rxb := overlay f (freeBuf s.draws), rxlen := BitVec.ofNat 8 f.length, f := (fieldsOf f).regs
                   draws := s.draws + 1, rx := rest, rxLimits := limits
                   link := s.link ++ [.read 2 (f.take 2), .read (f.length - 2) (f.drop 2)] } := by
  rcases receiveFrame_cases s with ⟨-, hr⟩ | ⟨sof, len, body, hrx, h2, ⟨-, hr⟩ | ⟨-, ⟨-, hr⟩ |
      ⟨hb, f, rest, hf, hbody, hlen, hif, ⟨-, hr⟩ | ⟨hp, hr⟩⟩⟩⟩
  · rw [hr] at h; cases h
  · rw [hr] at h; cases h
  · rw [hr] at h; cases h
  · rw [hr] at h; cases h
  · rw [hr] at h; cases h
    refine ⟨f, rest, s.rxLimits.tail.tail, hf.symm, hif, hp, rfl, ?_⟩
    have h8 := hif.1
    have e1 : s.rx.take 2 = f.take 2 := by rw [← hf, List.take_append_of_le_length (by omega)]
    have e2 : s.rx.drop 2 = body := by rw [hrx]; rfl
    have e3 : body.take (len.toNat - 2) = f.drop 2 := by
      rw [hbody, ← hlen]; exact List.take_left' (by simp)
    have e4 : body.drop (len.toNat - 2) = rest := by
      rw [hbody, ← hlen]; exact List.drop_left' (by simp)
    rw [memRead_eq (len.toNat - 2), memRead_eq 2, h2]
    simp only [e1, e2, hb, e3, e4, State.latchRx, hlen, List.append_assoc, List.cons_append, List.nil_append]

/-- The reception of a whole frame that no read is cut short in. -/
theorem receiveFrame_whole (s : State) (f rest : List Byte) (hf : IsFrame f) (hrx : s.rx = f ++ rest)
    (h1 : NotCut 2 s.rxLimits) (h2 : NotCut (f.length - 2) s.rxLimits.tail) :
    receiveFrame s =
      let s2 : State := { s with
        rx := rest, rxLimits := s.rxLimits.tail.tail
        link := s.link ++ [.read 2 (f.take 2), .read (f.length - 2) (f.drop 2)] }
      if verifyFrame f then (.ok (fieldsOf f), s2.latchRx f (fieldsOf f).regs)
      else (.error .checksumMismatch, s2.forgetRx) := by
  have hlb := hf.lenByte
  obtain ⟨hf8, hf255, -⟩ := hf
  have a2 : arrives 2 s.rxLimits s.rx = 2 := arrives_full _ _ _ h1 (by rw [hrx]; simp; omega)
  have t2 : s.rx.take 2 = f.take 2 := by rw [hrx, List.take_append_of_le_length (by omega)]
  have d2 : s.rx.drop 2 = f.drop 2 ++ rest := by rw [hrx, List.drop_append_of_le_length (by omega)]
  have m2 := memRead_eq 2 s
  rw [a2, t2, d2] at m2
  have g : (f.take 2).getD 1 0 = f.getD 1 0 := by simp [List.getD_eq_getElem?_getD]
  have a3 : arrives (f.length - 2) s.rxLimits.tail (f.drop 2 ++ rest) = f.length - 2 := arrives_full _ _ _ h2 (by simp)
  have m3 := memRead_eq (f.length - 2)
    { s with rx := f.drop 2 ++ rest, rxLimits := s.rxLimits.tail, link := s.link ++ [.read 2 (f.take 2)] }
  simp only [a3] at m3
  rw [List.take_left' (by simp), List.drop_left' (by simp)] at m3
  unfold receiveFrame
  simp only [m2, g, hlb, m3]
  rw [if_neg (by simp; omega), if_neg (by unfold Config.minFrame; omega), if_neg (by simp), List.take_append_drop]
  simp only [List.append_assoc, List.cons_append, List.nil_append]

/-- SENDREQ: CUR shaped and the request sent, or the fault. -/
theorem execSendreq_cases (s : State) :
    (∃ t, sendRequest s = some t ∧ execSendreq s = .next (t.report .none)) ∨ execSendreq s = .fault .unitRefusedInside := by
  unfold execSendreq
  cases h : sendRequest s with
  | none => exact .inr rfl
  | some t => exact .inl ⟨t, rfl, rfl⟩

/-- NEXT in NextRound: Cancelled, or the last entry popped into CUR and its request sent. -/
theorem execNext_cases {s t : State} (hst : s.st = .nextRound) (h : execNext s = .next t) :
    (s.cancelReq = true ∧ t = s.raise .cancelled) ∨
    (s.cancelReq = false ∧ ∃ rest r u, s.stk = rest ++ [r] ∧
      sendRequest { s with stk := rest, cur := maskToReg (maskOfReg r) } = some u ∧
      t = { u with st := .roundSent, reply := .none }) := by
  unfold execNext at h
  rw [if_pos hst] at h
  split at h
  · cases h; exact .inl ⟨‹_›, rfl⟩
  · split at h
    · cases h
    · rename_i m s1 hp
      obtain ⟨rest, r, e, rfl, rfl⟩ := popMask_eq_some hp
      split at h
      · cases h
      · rename_i u hu
        cases h
        exact .inr ⟨Bool.eq_false_iff.2 ‹_›, rest, r, u, e, hu, rfl⟩

/-! ### Steps -/

/-- What a step that goes on can be. -/
theorem step_cases {s t : State} (h : step s = .next t) :
    (s.turn = .reset ∧ t = hardReset s.consume) ∨ (s.turn = .wait ∧ t = s.consume) ∨
    (∃ byHost r, s.turn = .perform byHost r ∧
      ((∃ i, decode r = .ok i ∧ exec i s.consume = .next t) ∨
        (byHost = true ∧ (∃ e, decode r = .error e) ∧ t = s.consume.refuse))) := by
  unfold step at h
  split at h
  · cases h; exact .inl ⟨‹_›, rfl⟩
  · cases h; exact .inr (.inl ⟨‹_›, rfl⟩)
  · rename_i byHost r ht
    refine .inr (.inr ⟨byHost, r, ht, ?_⟩)
    split at h
    · exact .inl ⟨_, ‹_›, h⟩
    · rename_i e he
      unfold undecodable at h
      split at h
      · cases h; exact .inr ⟨‹_›, ⟨e, he⟩, rfl⟩
      · split at h <;> cases h

end Sys2Proof.Machine
end

