-- ==== Sys2Proof/Laws/Meanings.lean ====
section
/-! SUPPORT. For each operation that writes more than the report, everything a next state of its can be; and what a step
can be when only the host, the reset input and the Transport act. -/

namespace Sys2Proof.Machine

/-- The register form of what a register holds still holds it, where a request could be built from it. -/
theorem maskOfReg_stable {r : MaskReg} (h : (maskOfReg (maskToReg (maskOfReg r))).shaped = true) :
    maskOfReg (maskToReg (maskOfReg r)) = maskOfReg r := by
  obtain ⟨-, hl, -⟩ := (shaped_iff _).1 h
  have e : (maskOfReg (maskToReg (maskOfReg r))).len = r.len.toNat := by
    simp only [maskOfReg, maskToReg, BitVec.toNat_ofNat]; omega
  rw [e] at hl
  have := ceil8_le _ hl
  exact maskOfReg_maskToReg (maskOfReg r) hl
    (by simp only [maskOfReg, List.length_take, Vector.length_toList]; omega)

theorem start_cases {s t : State} (h : exec .start s = .next t) :
    (s.busy = true ∧ t = s.refuse) ∨ (s.busy = false ∧ t = { s with
      stk := [], tags := [], tagcnt := 0, err := .none, isocode := 0, cancelReq := false, rounds := 1
      cur := .empty, txb := overlay (requestOf s.params ⟨0, []⟩) s.txb, txlen := 12
      link := s.link ++ [.write (requestOf s.params ⟨0, []⟩)], st := .roundSent, reply := .none }) := by
  change execStart s = _ at h
  unfold execStart at h
  split at h
  · cases h; exact .inl ⟨‹_›, rfl⟩
  · have hc : (sessionReset s).curMask = ⟨0, []⟩ := maskOfReg_empty
    simp only [sendRequest_eq (sessionReset s) (by rw [hc]; rfl), hc] at h
    cases h
    exact .inr ⟨Bool.eq_false_iff.2 ‹_›, by simp [sessionReset, clearStack, MaskReg.empty]⟩

theorem recv_cases {s t : State} (h : exec .recv s = .next t) :
    (s.st ≠ .roundSent ∧ t = s.refuse) ∨ (s.st = .roundSent ∧
      ((∃ f rest limits, s.rx = f ++ rest ∧ IsFrame f ∧ PairRight f ∧
        t = { s with rxb := overlay f (freeBuf s.draws), rxlen := BitVec.ofNat 8 f.length, f := (fieldsOf f).regs
                     draws := s.draws + 1, rx := rest, rxLimits := limits
                     link := s.link ++ [.read 2 (f.take 2), .read (f.length - 2) (f.drop 2)]
                     st := .roundReceived, reply := .none }) ∨
       ∃ e rx limits reads, (e = .transportTimeout ∨ e = .malformedFrame ∨ e = .checksumMismatch) ∧ rx <:+ s.rx ∧
        (∀ x ∈ reads, x.isWrite = false) ∧ reads ≠ [] ∧
        t = { s with rxb := freeBuf s.draws, rxlen := Config.freeByte s.draws 255, f := freeFields s.draws
                     draws := s.draws + 1, rx := rx, rxLimits := limits, link := s.link ++ reads
                     err := e, st := .fatal, reply := .raised e })) := by
  by_cases hst : s.st = .roundSent
  · rcases execRecv_cases hst h with ⟨r, d, hr, rfl⟩ | ⟨e, d, hr, rfl⟩
    · obtain ⟨f, rest, limits, a, b, c, -, rfl⟩ := receiveFrame_ok hr
      exact .inr ⟨hst, .inl ⟨f, rest, limits, a, b, c, rfl⟩⟩
    · obtain ⟨he, rx, limits, reads, a, b, c, rfl⟩ := receiveFrame_error hr
      exact .inr ⟨hst, .inr ⟨e, rx, limits, reads, he, a, b, c, rfl⟩⟩
  · change execRecv s = _ at h
    unfold execRecv at h; rw [if_neg hst] at h; cases h; exact .inl ⟨hst, rfl⟩

theorem decode_cases {s t : State} (h : exec .decode s = .next t) :
    (∃ f rest limits, s.rx = f ++ rest ∧ IsFrame f ∧ PairRight f ∧
      t = { s with rxb := overlay f (freeBuf s.draws), rxlen := BitVec.ofNat 8 f.length, f := (fieldsOf f).regs
                   draws := s.draws + 1, rx := rest, rxLimits := limits
                   link := s.link ++ [.read 2 (f.take 2), .read (f.length - 2) (f.drop 2)]
                   reply := .fields (fieldsOf f) }) ∨
    ∃ e rx limits reads, rx <:+ s.rx ∧ (∀ x ∈ reads, x.isWrite = false) ∧ reads ≠ [] ∧
      t = { s with rxb := freeBuf s.draws, rxlen := Config.freeByte s.draws 255, f := freeFields s.draws
                   draws := s.draws + 1, rx := rx, rxLimits := limits, link := s.link ++ reads
                   reply := .raised e } := by
  change execDecode s = _ at h
  unfold execDecode at h
  split at h
  · obtain ⟨f, rest, limits, a, b, c, rfl, rfl⟩ := receiveFrame_ok ‹_›
    cases h; exact .inl ⟨f, rest, limits, a, b, c, rfl⟩
  · obtain ⟨-, rx, limits, reads, a, b, c, rfl⟩ := receiveFrame_error ‹_›
    cases h; exact .inr ⟨_, rx, limits, reads, a, b, c, rfl⟩

theorem isochk_cases {s t : State} (h : exec .isochk s = .next t) :
    (s.st ≠ .roundReceived ∧ t = s.refuse) ∨ (s.st = .roundReceived ∧
      ((s.f.len = s.params.errFrameLen ∧ s.rxb[s.params.errCodeOff] ≠ 0 ∧ t = { s with
          isocode := s.rxb[s.params.errCodeOff], err := .isoError, st := .fatal, reply := .raised .isoError }) ∨
       (¬ (s.f.len = s.params.errFrameLen ∧ s.rxb[s.params.errCodeOff] ≠ 0) ∧
          t = { s with st := .extractTags, reply := .none }))) := by
  change execIsochk s = _ at h
  unfold execIsochk at h
  split at h
  · simp only at h
    split at h
    · rename_i hc; cases h; exact .inr ⟨‹_›, .inl ⟨hc.1, hc.2, rfl⟩⟩
    · cases h; exact .inr ⟨‹_›, .inr ⟨‹_›, rfl⟩⟩
  · cases h; exact .inl ⟨‹_›, rfl⟩

theorem tagRecords_length (p : List Byte) (n : Nat) : (tagRecords p n).length = n := by simp [tagRecords]

/-- The valid-data field EXTRACT assembles is the one in RXB. -/
theorem validField_eq (s : State) (h : 4 ≤ s.f.plen.toNat) :
    flagField (s.payload.getD 0 0) (s.payload.getD 1 0) = s.rxb.toList.getD 7 0 ++ s.rxb.toList.getD 6 0 := by
  have e : ∀ i, i < 4 → s.payload.getD i 0 = s.rxb.toList.getD (6 + i) 0 := fun i hi => by
    simp only [State.payload, Config.hdrLen, List.getD_eq_getElem?_getD, List.getElem?_take, List.getElem?_drop,
      show i < s.f.plen.toNat by omega, if_true]
  rw [flagField_eq, e 0 (by omega), e 1 (by omega)]

/-- EXTRACT, with n the number of set valid-data bits: its three tests in order, or the appended records. -/
theorem extract_cases {s t : State} (h : exec .extract s = .next t) :
    let n := setBits (s.rxb.toList.getD 7 0 ++ s.rxb.toList.getD 6 0)
    let short := s.f.plen.toNat < 4 ∨ s.f.plen.toNat < 4 + 10 * n
    (s.st ≠ .extractTags ∧ t = s.refuse) ∨ (s.st = .extractTags ∧
      ((short ∧ t = s.raise .malformedResponse) ∨
       (¬ short ∧ 2 ^ 32 - 1 < s.tagcnt.toNat + n ∧ t = s.raise .resultOverflow) ∨
       (¬ short ∧ ∃ v c recs, recs.length = n ∧ s.tagcnt.toNat + n < 2 ^ 32 ∧ t = { s with
          valid := v, coll := c, tags := s.tags ++ recs, tagcnt := s.tagcnt + BitVec.ofNat 32 n
          tagOut := s.tagOut ++ recs, st := .processCollisions, reply := .none }))) := by
  intro n short
  change execExtract s = _ at h
  unfold execExtract at h
  split at h
  · refine .inr ⟨‹_›, ?_⟩
    by_cases h4 : s.f.plen.toNat < 4
    · simp only [if_pos h4] at h
      cases h; exact .inl ⟨.inl h4, rfl⟩
    · simp only [if_neg h4, validField_eq s (by omega), popcount16_eq_setBits] at h
      split at h
      · cases h; exact .inl ⟨.inr ‹_›, rfl⟩
      · have hs : ¬ short := fun hs => hs.elim h4 ‹_›
        split at h
        · cases h; exact .inr (.inl ⟨hs, ‹_›, rfl⟩)
        · rename_i hm
          unfold Config.tagMax at hm
          cases h
          exact .inr (.inr ⟨hs, _, _, tagRecords s.payload n, tagRecords_length _ _, by show _ + n < _; omega, rfl⟩)
  · cases h; exact .inl ⟨‹_›, rfl⟩

theorem collide_cases {s t : State} (h : exec .collide s = .next t) :
    (s.st ≠ .processCollisions ∧ t = s.refuse) ∨ (s.st = .processCollisions ∧
      ∃ new, pushDerived s.curMask (cscan s.coll) s = some { s with stk := s.stk ++ new } ∧ (∀ r ∈ new, r.ok = true) ∧
        (s.stk ++ new).length ≤ max 256 s.stk.length ∧
        t = { s with stk := s.stk ++ new, st := .pushMasks, reply := .none }) := by
  change execCollide s = _ at h
  unfold execCollide at h
  split at h
  · split at h
    · rename_i u hu
      obtain ⟨new, rfl, a, b⟩ := pushDerived_stk hu
      cases h; exact .inr ⟨‹_›, new, hu, a, b, rfl⟩
    · cases h
  · cases h; exact .inl ⟨‹_›, rfl⟩

theorem fatalchk_cases {s t : State} (h : exec .fatalchk s = .next t) :
    (s.st ≠ .pushMasks ∧ t = s.refuse) ∨ (s.st = .pushMasks ∧
      ((s.coll ≠ 0 ∧ s.cur.len.toNat = 60 ∧ t = s.raise .clonedOrFaultError) ∨
       (¬ (s.coll ≠ 0 ∧ s.cur.len.toNat = 60) ∧ s.stk = [] ∧ t = { s with st := .done, reply := .none }) ∨
       (¬ (s.coll ≠ 0 ∧ s.cur.len.toNat = 60) ∧ s.stk ≠ [] ∧ t = { s with st := .nextRound, reply := .none }))) := by
  have e : s.cur.len.toNat + Config.grow = Config.maskMax ↔ s.cur.len.toNat = 60 := by
    show s.cur.len.toNat + 4 = 64 ↔ _; omega
  change execFatalchk s = _ at h
  unfold execFatalchk at h
  split at h
  · split at h
    · rename_i hc; cases h; exact .inr ⟨‹_›, .inl ⟨hc.1, e.1 hc.2, rfl⟩⟩
    · rename_i hn
      rw [e] at hn
      split at h
      · rename_i he; cases h; exact .inr ⟨‹_›, .inr (.inl ⟨hn, by simpa [State.stkEmpty] using he, rfl⟩)⟩
      · rename_i he; cases h; exact .inr ⟨‹_›, .inr (.inr ⟨hn, by simpa [State.stkEmpty] using he, rfl⟩)⟩
  · cases h; exact .inl ⟨‹_›, rfl⟩

theorem next_cases {s t : State} (h : exec .next s = .next t) :
    (s.st ≠ .nextRound ∧ t = s.refuse) ∨ (s.st = .nextRound ∧
      ((s.cancelReq = true ∧ t = s.raise .cancelled) ∨
       (s.cancelReq = false ∧ ∃ rest r, s.stk = rest ++ [r] ∧ (maskOfReg r).shaped = true ∧ t = { s with
          stk := rest, cur := maskToReg (maskOfReg r)
          txb := overlay (requestOf s.params (maskOfReg r)) s.txb
          txlen := BitVec.ofNat 8 (12 + ((maskToReg (maskOfReg r)).len.toNat + 7) / 8)
          link := s.link ++ [.write (requestOf s.params (maskOfReg r))]
          rounds := s.rounds + 1, st := .roundSent, reply := .none }))) := by
  by_cases hst : s.st = .nextRound
  · rcases execNext_cases hst h with h | ⟨hc, rest, r, u, hs, hu, rfl⟩
    · exact .inr ⟨hst, .inl h⟩
    · obtain ⟨a, rfl⟩ := sendRequest_eq_some hu
      have e := maskOfReg_stable a
      refine .inr ⟨hst, .inr ⟨hc, rest, r, hs, e ▸ a, ?_⟩⟩
      simp only [State.curMask, e]
  · change execNext s = _ at h
    unfold execNext at h; rw [if_neg hst] at h; cases h; exact .inl ⟨hst, rfl⟩

theorem sendreq_cases {s t : State} (h : exec .sendreq s = .next t) :
    s.curMask.shaped = true ∧ t = { s with
      txb := overlay (requestOf s.params s.curMask) s.txb
      txlen := BitVec.ofNat 8 (12 + (s.cur.len.toNat + 7) / 8)
      link := s.link ++ [.write (requestOf s.params s.curMask)]
      rounds := s.rounds + 1, reply := .none } := by
  change execSendreq s = _ at h
  rcases execSendreq_cases s with ⟨u, hu, e⟩ | e
  · obtain ⟨a, rfl⟩ := sendRequest_eq_some hu
    rw [e] at h; cases h; exact ⟨a, rfl⟩
  · rw [e] at h; cases h

theorem push_cases {m : Mask} {s t : State} (h : exec (.push m) s = .next t) :
    t = s.refuse ∨ (s.stk.length < 256 ∧ m.wellFormed = true ∧
      t = { s with stk := s.stk ++ [maskToReg m], reply := .none }) := by
  change execPush m s = _ at h
  unfold execPush at h
  split at h
  · obtain ⟨a, b, rfl⟩ := pushMask_eq_some ‹_›
    cases h; exact .inr ⟨a, b, rfl⟩
  · cases h; exact .inl rfl

theorem pop_cases {s t : State} (h : exec .pop s = .next t) :
    (s.stk = [] ∧ t = s.refuse) ∨
    ∃ rest r, s.stk = rest ++ [r] ∧ t = { s with stk := rest, reply := .mask (maskOfReg r) } := by
  change execPop s = _ at h
  unfold execPop at h
  split at h
  · obtain ⟨rest, r, e, rfl, rfl⟩ := popMask_eq_some ‹_›
    cases h; exact .inr ⟨rest, r, e, rfl⟩
  · rename_i hp
    cases h
    unfold popMask at hp
    split at hp
    · rename_i hg; exact .inl ⟨by simpa using hg, rfl⟩
    · cases hp

/-- The micro-operation of each ST. -/
def microOf : St → Option Instr
  | .roundSent => some .recv
  | .roundReceived => some .isochk
  | .extractTags => some .extract
  | .processCollisions => some .collide
  | .pushMasks => some .fatalchk
  | .nextRound => some .next
  | .idle => none
  | .done => none
  | .fatal => none

/-- A step in the sequencer's turn. -/
theorem step_sequencer {s : State} (h : s.turn = s.sequencerTurn) :
    (microOf s.st = none ∧ step s = .next s.consume) ∨ ∃ i, microOf s.st = some i ∧ step s = exec i s.consume := by
  unfold step
  rw [h]
  unfold State.sequencerTurn State.microRequest
  cases s.st
  case idle | done | fatal => exact .inl ⟨rfl, rfl⟩
  all_goals exact .inr ⟨_, rfl, rfl⟩

/-- A step of a block that only the host, the reset input and the Transport drive: a reset, a wait, a host command or the
micro-operation of ST, or the refusal of HCMD = 3. -/
theorem step_outside {s : State} (ho : ∀ x ∈ s.inputs, x.fromOutside = true) :
    ((∃ rest, s.inputs = .hwReset :: rest) ∧ step s = .next (hardReset s.consume)) ∨
    (microOf s.st = none ∧ step s = .next s.consume) ∨
    (∃ i, (i = .nop ∨ i = .start ∨ i = .cancel ∨ microOf s.st = some i) ∧ step s = exec i s.consume) ∨
    step s = .next s.consume.refuse := by
  have hseq : s.turn = s.sequencerTurn → (microOf s.st = none ∧ step s = .next s.consume) ∨
      ∃ i, (i = .nop ∨ i = .start ∨ i = .cancel ∨ microOf s.st = some i) ∧ step s = exec i s.consume := by
    intro ht
    rcases step_sequencer ht with h | ⟨i, hi, h⟩
    · exact .inl h
    · exact .inr ⟨i, by simp [hi], h⟩
  match hi : s.inputs with
  | [] => exact .inr ((hseq (by unfold State.turn; rw [hi])).imp id .inl)
  | .sequencer :: rest => exact .inr ((hseq (by unfold State.turn; rw [hi])).imp id .inl)
  | .hwReset :: rest =>
    refine .inl ⟨⟨rest, rfl⟩, ?_⟩
    have ht : s.turn = .reset := by unfold State.turn; rw [hi]
    unfold step; rw [ht]
  | .bench r :: rest => exact absurd (ho (.bench r) (by rw [hi]; simp)) (by simp [Input.fromOutside])
  | .host c :: rest =>
    have ht : s.turn = .perform true (hostRequest c) := by unfold State.turn; rw [hi]
    unfold step; rw [ht]
    have hc : c = 0 ∨ c = 1 ∨ c = 2 ∨ c = 3 := by clear ht hi; revert c; decide
    rcases hc with rfl | rfl | rfl | rfl
    · exact .inr (.inr (.inl ⟨.nop, by simp, rfl⟩))
    · exact .inr (.inr (.inl ⟨.start, by simp, rfl⟩))
    · exact .inr (.inr (.inl ⟨.cancel, by simp, rfl⟩))
    · exact .inr (.inr (.inr rfl))

/-! ### Counting pending masks by level -/

theorem length_eq_level_add (l : List MaskReg) (m : Nat) :
    l.length = l.countP (fun r => r.level == m) + (l.filter fun r => r.level != m).length := by
  induction l with
  | nil => rfl
  | cons a l ih =>
    by_cases h : a.level = m
    · simp [h] at ih ⊢; omega
    · simp [h] at ih ⊢; omega

/-- Masks of levels 1 to n, at most c of each, are at most n * c. -/
theorem length_le_levels (n c : Nat) (l : List MaskReg) (h : ∀ r ∈ l, 1 ≤ r.level ∧ r.level ≤ n)
    (hc : ∀ k, k ≤ n → l.countP (fun r => r.level == k) ≤ c) : l.length ≤ n * c := by
  induction n generalizing l with
  | zero =>
    cases l with
    | nil => simp
    | cons a l => have := h a (by simp); omega
  | succ n ih =>
    have h1 := length_eq_level_add l (n + 1)
    have h2 := ih (l.filter fun r => r.level != n + 1)
      (fun r hr => by
        have hm := List.mem_filter.1 hr
        have h3 := h r hm.1
        have : r.level ≠ n + 1 := by simpa using hm.2
        omega)
      (fun k hk => Nat.le_trans (List.Sublist.countP_le List.filter_sublist) (hc k (by omega)))
    have h3 := hc (n + 1) (by omega)
    rw [Nat.add_mul]; omega

end Sys2Proof.Machine
end

