-- ==== Sys2Proof/Laws/PerInstr.lean ====
section
/-! SUPPORT. The per-instruction family Encoding: the word of an operation is compared whole, its unit nibble names one of
the five units (30_encoding.md R95), and with its operand it decodes to the operation. -/

namespace Sys2Proof.Laws.Encoding

/-- What holds of the encoding of each operation. -/
def Statement (i : Instr) : Prop :=
  (encode i).opw.toNat / 16 ≤ 4 ∧ (rowOf (encode i).opw).isSome = true ∧
    ∀ row, rowOf (encode i).opw = some row → row.build (encode i).operand = some i

theorem of_word {i : Instr} (w : BitVec 8) {row : Row} (hw : (encode i).opw = w) (hu : w.toNat / 16 ≤ 4)
    (hr : rowOf w = some row) (hb : row.build (encode i).operand = some i) : Statement i := by
  subst hw
  exact ⟨hu, by rw [hr]; rfl, fun row' h => by rw [hr] at h; cases h; exact hb⟩

theorem nop : Statement (.nop) := of_word 0x00 rfl (by decide) rfl rfl
theorem start : Statement (.start) := of_word 0x01 rfl (by decide) rfl rfl
theorem cancel : Statement (.cancel) := of_word 0x02 rfl (by decide) rfl rfl
theorem recv : Statement (.recv) := of_word 0x10 rfl (by decide) rfl rfl
theorem isochk : Statement (.isochk) := of_word 0x11 rfl (by decide) rfl rfl
theorem extract : Statement (.extract) := of_word 0x12 rfl (by decide) rfl rfl
theorem collide : Statement (.collide) := of_word 0x13 rfl (by decide) rfl rfl
theorem fatalchk : Statement (.fatalchk) := of_word 0x14 rfl (by decide) rfl rfl
theorem next : Statement (.next) := of_word 0x15 rfl (by decide) rfl rfl
theorem sendreq : Statement (.sendreq) := of_word 0x16 rfl (by decide) rfl rfl
theorem csum (s : List Byte) : Statement (.csum s) := of_word 0x20 rfl (by decide) rfl rfl
theorem verify (f : List Byte) : Statement (.verify f) := of_word 0x21 rfl (by decide) rfl rfl
theorem fields (f : List Byte) : Statement (.fields f) := of_word 0x22 rfl (by decide) rfl rfl
theorem encode (cmd : Byte) (payload : List Byte) : Statement (.encode cmd payload) := of_word 0x23 rfl (by decide) rfl rfl
theorem decode : Statement (.decode) := of_word 0x24 rfl (by decide) rfl rfl
theorem clear : Statement (.clear) := of_word 0x30 rfl (by decide) rfl rfl
theorem push (m : Mask) : Statement (.push m) := of_word 0x31 rfl (by decide) rfl rfl
theorem pop : Statement (.pop) := of_word 0x32 rfl (by decide) rfl rfl
theorem buildreq (m : Mask) : Statement (.buildreq m) := of_word 0x40 rfl (by decide) rfl rfl
theorem derive (m : Mask) (slot : Nat) : Statement (.derive m slot) := of_word 0x41 rfl (by decide) rfl rfl
theorem tagparse (blk : List Byte) : Statement (.tagparse blk) := of_word 0x42 rfl (by decide) rfl rfl
theorem isomap (code : Byte) : Statement (.isomap code) := of_word 0x43 rfl (by decide) rfl rfl
theorem vscan (v : BitVec 16) : Statement (.vscan v) := of_word 0x44 rfl (by decide) rfl rfl
theorem cscan (c : BitVec 16) : Statement (.cscan c) := of_word 0x45 rfl (by decide) rfl rfl

end Sys2Proof.Laws.Encoding
end

