-- ==== Sys2Proof/Tests/Slice0.lean ====
section
/-! SUPPORT. The model's own tests. Decoding: words written out from 30_encoding.md R95 and R100. Values: the vectors of
95_test_vectors.md (named V-..., with TX_FLAGS = 0x00 and INV_CMD_ID = 0x60, which are examples there too). Then one
witness for the hypotheses of each statement. -/

namespace Sys2Proof.Tests

open Sys2Proof.Machine

/-! ### Decoding -/

theorem test_decode_host_words :
    decode ⟨0b0000_0000, .none⟩ = .ok .nop ∧ decode ⟨0b0000_0001, .none⟩ = .ok .start ∧
      decode ⟨0b0000_0010, .none⟩ = .ok .cancel := ⟨rfl, rfl, rfl⟩

theorem test_decode_sequencer_words :
    decode ⟨0b0001_0000, .none⟩ = .ok .recv ∧ decode ⟨0b0001_0001, .none⟩ = .ok .isochk ∧
      decode ⟨0b0001_0010, .none⟩ = .ok .extract ∧ decode ⟨0b0001_0011, .none⟩ = .ok .collide ∧
      decode ⟨0b0001_0100, .none⟩ = .ok .fatalchk ∧ decode ⟨0b0001_0101, .none⟩ = .ok .next ∧
      decode ⟨0b0001_0110, .none⟩ = .ok .sendreq := ⟨rfl, rfl, rfl, rfl, rfl, rfl, rfl⟩

theorem test_decode_framecodec_words :
    decode ⟨0b0010_0000, .bytes [0x5A]⟩ = .ok (.csum [0x5A]) ∧
      decode ⟨0b0010_0001, .bytes [0x00, 0xFF]⟩ = .ok (.verify [0x00, 0xFF]) ∧
      decode ⟨0b0010_0010, .bytes [1, 2]⟩ = .ok (.fields [1, 2]) ∧
      decode ⟨0b0010_0011, .command 0x60 [0xAA, 0x55]⟩ = .ok (.encode 0x60 [0xAA, 0x55]) ∧
      decode ⟨0b0010_0100, .none⟩ = .ok .decode := ⟨rfl, rfl, rfl, rfl, rfl⟩

theorem test_decode_maskstack_words :
    decode ⟨0b0011_0000, .none⟩ = .ok .clear ∧ decode ⟨0b0011_0001, .mask ⟨4, [3]⟩⟩ = .ok (.push ⟨4, [3]⟩) ∧
      decode ⟨0b0011_0010, .none⟩ = .ok .pop := ⟨rfl, rfl, rfl⟩

theorem test_decode_interpreter_words :
    decode ⟨0b0100_0000, .mask ⟨4, [3]⟩⟩ = .ok (.buildreq ⟨4, [3]⟩) ∧
      decode ⟨0b0100_0001, .maskSlot ⟨4, [3]⟩ 10⟩ = .ok (.derive ⟨4, [3]⟩ 10) ∧
      decode ⟨0b0100_0010, .bytes [8, 7]⟩ = .ok (.tagparse [8, 7]) ∧
      decode ⟨0b0100_0011, .byte 4⟩ = .ok (.isomap 4) ∧ decode ⟨0b0100_0100, .flags 0x0302⟩ = .ok (.vscan 0x0302) ∧
      decode ⟨0b0100_0101, .flags 0x0302⟩ = .ok (.cscan 0x0302) := ⟨rfl, rfl, rfl, rfl, rfl, rfl⟩

/-- The first and the last word after each unit's rows name no operation. -/
theorem test_decode_rejects_by_name :
    ([0x03, 0x0F, 0x17, 0x1F, 0x25, 0x2F, 0x33, 0x3F, 0x46, 0x4F, 0x50, 0xFF] : List (BitVec 8)).all
      (fun w => decide (decodeTableWord 8 w.toNat = none)) = true := by decide

theorem test_decode_rejects_operand :
    decode ⟨0x20, .none⟩ = .error (.wrongOperand 0x20) ∧ decode ⟨0x00, .byte 0⟩ = .error (.wrongOperand 0x00) := ⟨rfl, rfl⟩

/-! ### Operand domains: an ill-formed term for each check -/

theorem test_ill_formed_sequences :
    Instr.wellFormed (.csum (List.replicate 254 0)) = false ∧ Instr.wellFormed (.verify [0x00]) = false ∧
      Instr.wellFormed (.fields (List.replicate 7 0)) = false ∧ Instr.wellFormed (.fields (List.replicate 256 0)) = false ∧
      Instr.wellFormed (.encode 0x60 (List.replicate 248 0)) = false ∧
      Instr.wellFormed (.tagparse (List.replicate 9 0)) = false := by
  decide +kernel

/-- Length not a multiple of 4, above 64, wrong byte count, not canonical. -/
theorem test_ill_formed_masks :
    Mask.wellFormed ⟨6, [3]⟩ = false ∧ Mask.wellFormed ⟨68, List.replicate 9 0⟩ = false ∧
      Mask.wellFormed ⟨8, [0xA9, 0x05]⟩ = false ∧ Mask.wellFormed ⟨4, [0x13]⟩ = false ∧
      Instr.wellFormed (.push ⟨4, [0x13]⟩) = false ∧ Instr.wellFormed (.buildreq ⟨8, [0xA9, 0x05]⟩) = false ∧
      Instr.wellFormed (.derive ⟨64, List.replicate 8 0x55⟩ 0) = false ∧ Instr.wellFormed (.derive ⟨0, []⟩ 16) = false := by
  decide

theorem test_well_formed_masks :
    Mask.wellFormed ⟨0, []⟩ = true ∧ Mask.wellFormed ⟨4, [0x0F]⟩ = true ∧
      Mask.wellFormed ⟨64, List.replicate 8 0x55⟩ = true := by decide

/-! ### Codes -/

theorem test_codes :
    ([St.idle, .roundSent, .roundReceived, .extractTags, .processCollisions, .pushMasks, .nextRound, .done, .fatal].map
      St.code) = [0, 1, 2, 3, 4, 5, 6, 7, 8] ∧
    ([Err.none, .transportTimeout, .checksumMismatch, .isoError, .clonedOrFaultError, .malformedFrame, .malformedResponse,
      .cancelled, .resultOverflow].map Err.code) = [0, 1, 2, 3, 4, 5, 6, 7, 8] ∧
    [meaningText 0, meaningText 1, meaningText 2, meaningText 3] =
      ["Transponder not found", "Command not supported", "Invalid flags", "Unknown error code"] := by decide

/-! ### States for the tests -/

/-- After reset, with the example instantiation. -/
def ready : State := { State.reset with params := ⟨0x00, 0x60, 9, 6⟩ }

/-- ERR_FRAME_LEN and ERR_CODE_OFF are at their defaults at reset. -/
theorem test_default_parameters : State.reset.params.errFrameLen = 9 ∧ State.reset.params.errCodeOff = 6 := ⟨rfl, rfl⟩

/-- In a round with CUR empty, a given ST, and bytes waiting. -/
def inRound (st : St) (rx : List Byte) : State := { ready with st := st, rx := rx, rounds := 1 }

/-- In a round after a frame was received. -/
def holding (st : St) (frame : List Byte) : State :=
  { ready with
    st := st, rxb := overlay frame (Vector.replicate 255 0), rxlen := BitVec.ofNat 8 frame.length
    f := (fieldsOf frame).regs, rounds := 1 }

/-- What a next state shows. -/
def after {α : Type} (o : Host.Outcome State Fault Refusal) (g : State → α) : Option α :=
  match o with
  | .next t => some (g t)
  | .fault _ => none
  | .refused _ => none

/-- The stack entries of 4-bit masks. -/
def nib (b : Byte) : MaskReg := maskToReg ⟨4, [b]⟩

/-- V-EXTRACT-1: nothing valid, nothing colliding. -/
def quiet : List Byte := [0x01, 0x0C, 0x00, 0x00, 0x00, 0x60, 0x00, 0x00, 0x00, 0x00, 0x6D, 0x92]

/-- S1: one tag in slot 0. -/
def oneTag : List Byte :=
  [0x01, 0x16, 0x00, 0x00, 0x00, 0x60, 0x01, 0x00, 0x00, 0x00, 0x08, 0x07, 0x06, 0x05, 0x04, 0x03, 0x02, 0x01, 0x00, 0x00,
    0x7E, 0x81]

/-- V-COLLIDE-1: collisions in slots 0 and 3. -/
def twoCollisions : List Byte := [0x01, 0x0C, 0x00, 0x00, 0x00, 0x60, 0x00, 0x00, 0x09, 0x00, 0x64, 0x9B]

/-! ### Values -/

theorem test_nop : after (exec .nop ready) (fun t => decide (t = ready)) = some true := by
  simp [after, exec, execNop]

/-- V-REQ-1. -/
theorem test_start_sends_first_request :
    after (exec .start ready) (fun t => (t.st, t.txFrames, t.rounds, t.sp, t.txlen)) =
      some (.roundSent, [[0x01, 0x0C, 0x00, 0x00, 0x00, 0x60, 0x11, 0x07, 0x01, 0x00, 0x7A, 0x85]], 1, 0, 12) := by decide

/-- V-HOST-1. -/
theorem test_start_refused_while_busy :
    after (exec .start (inRound .roundSent [])) (fun t => (t.st, t.txFrames, t.rounds, t.reply)) =
      some (.roundSent, [], 1, .refused) := by decide

/-- V-HOST-4. -/
theorem test_cancel_sets_flag : after (exec .cancel ready) (fun t => (t.cancelReq, t.st)) = some (true, .idle) := by decide

/-- V-REQ-2. -/
theorem test_sendreq :
    after (exec .sendreq { ready with cur := nib 0x03 }) (fun t => (t.txFrames, t.rounds)) =
      some ([[0x01, 0x0D, 0x00, 0x00, 0x00, 0x60, 0x11, 0x07, 0x01, 0x04, 0x03, 0x7C, 0x83]], 1) := by decide

/-- V-REQ-6. -/
theorem test_sendreq_60_bits :
    after (exec .sendreq { ready with cur := maskToReg ⟨60, [0x21, 0x43, 0x65, 0x87, 0xA9, 0xCB, 0xED, 0x0F]⟩ })
      (fun t => t.txFrames) =
      some [[0x01, 0x14, 0x00, 0x00, 0x00, 0x60, 0x11, 0x07, 0x01, 0x3C, 0x21, 0x43, 0x65, 0x87, 0xA9, 0xCB, 0xED, 0x0F,
        0x5E, 0xA1]] := by decide

/-- The example of R155. -/
theorem test_recv_accepts :
    after (exec .recv (inRound .roundSent quiet)) (fun t => (t.st, t.f.len, t.f.plen, t.rx)) =
      some (.roundReceived, 12, 4, []) := by decide

/-- S2: the complement byte is corrupted (90_conflicts.md C1). -/
theorem test_recv_rejects_corrupt_complement :
    after (exec .recv (inRound .roundSent (oneTag.dropLast ++ [0x80]))) (fun t => (t.st, t.err, t.tagcnt)) =
      some (.fatal, .checksumMismatch, 0) := by decide

/-- V-ISOCHK-3. -/
theorem test_isochk_error_frame :
    after (exec .isochk (holding .roundReceived [0x01, 0x09, 0x00, 0x00, 0x00, 0x60, 0x04, 0x6C, 0x93]))
      (fun t => (t.st, t.err, t.isocode, t.meaning)) = some (.fatal, .isoError, 4, 2) := by decide

/-- V-ISOCHK-6. -/
theorem test_isochk_other_length :
    after (exec .isochk (holding .roundReceived [0x01, 0x0C, 0x00, 0x00, 0x00, 0x60, 0x01, 0x00, 0x00, 0x00, 0x6C, 0x93]))
      (fun t => (t.st, t.err)) = some (.extractTags, .none) := by decide

/-- S1. -/
theorem test_extract_one_tag :
    after (exec .extract (holding .extractTags oneTag)) (fun t => (t.st, t.valid, t.coll, t.tags, t.tagcnt)) =
      some (.processCollisions, 0x0001, 0x0000, [⟨0x0102030405060708, 0x00⟩], 1) := by decide

/-- V-EXTRACT-4. -/
theorem test_extract_too_few_blocks :
    after (exec .extract (holding .extractTags
      [0x01, 0x16, 0x00, 0x00, 0x00, 0x60, 0x03, 0x00, 0x00, 0x00, 0x08, 0x07, 0x06, 0x05, 0x04, 0x03, 0x02, 0x01, 0x00, 0x00,
        0x7C, 0x83])) (fun t => (t.st, t.err, t.valid, t.tags)) = some (.fatal, .malformedResponse, 0, []) := by decide

/-- V-COLLIDE-1. -/
theorem test_collide_two :
    after (exec .collide { inRound .processCollisions [] with coll := 0x0009 }) (fun t => (t.st, t.stk)) =
      some (.pushMasks, [nib 0x00, nib 0x03]) := by decide

/-- V-COLLIDE-2. -/
theorem test_collide_all :
    after (exec .collide { inRound .processCollisions [] with coll := 0xFFFF }) (fun t => (t.sp, t.stk.getLast?)) =
      some (16, some (nib 0x0F)) := by decide

/-- V-FATALCHK-1. -/
theorem test_fatalchk_at_64_bits :
    after (exec .fatalchk { inRound .pushMasks [] with cur := maskToReg ⟨60, [1, 2, 3, 4, 5, 6, 7, 9]⟩, coll := 0x0020 })
      (fun t => (t.st, t.err)) = some (.fatal, .clonedOrFaultError) := by decide

/-- V-FATALCHK-2. -/
theorem test_fatalchk_done :
    after (exec .fatalchk { inRound .pushMasks [] with cur := maskToReg ⟨60, [1, 2, 3, 4, 5, 6, 7, 9]⟩ })
      (fun t => (t.st, t.err)) = some (.done, .none) := by decide

/-- V-NEXT-2. -/
theorem test_next_pops_last :
    after (exec .next { inRound .nextRound [] with stk := [nib 0x00, nib 0x03] })
      (fun t => (t.st, t.cur :: t.stk, t.txFrames, t.rounds)) =
      some (.roundSent, [nib 0x03, nib 0x00],
        [[0x01, 0x0D, 0x00, 0x00, 0x00, 0x60, 0x11, 0x07, 0x01, 0x04, 0x03, 0x7C, 0x83]], 2) := by decide

/-- V-NEXT-1. -/
theorem test_next_cancelled :
    after (exec .next { inRound .nextRound [] with stk := [nib 0x00, nib 0x03], cancelReq := true })
      (fun t => (t.st, t.err, t.sp, t.txFrames)) = some (.fatal, .cancelled, 2, []) := by decide

/-- V-CSUM-1 and V-CSUM-3. -/
theorem test_csum :
    after (exec (.csum []) ready) (fun t => t.reply) = some (.checksum 0x00 0xFF) ∧
      after (exec (.csum [0x01, 0x08, 0x00, 0x00, 0x00, 0x60]) ready) (fun t => t.reply) = some (.checksum 0x69 0x96) := by
  decide

/-- V-VERIFY-2, V-VERIFY-3 and V-VERIFY-5. -/
theorem test_verify :
    after (exec (.verify [0x01, 0x08, 0x00, 0x00, 0x00, 0x60, 0x68, 0x97]) ready) (fun t => t.reply) = some (.verified false) ∧
      after (exec (.verify [0x01, 0x08, 0x00, 0x00, 0x00, 0x60, 0x69, 0x97]) ready) (fun t => t.reply) =
        some (.verified false) ∧
      after (exec (.verify [0x01, 0x08, 0x00, 0x00, 0x01, 0x61, 0x69, 0x96]) ready) (fun t => t.reply) =
        some (.verified true) := by decide

/-- V-FIELDS-1. -/
theorem test_fields :
    after (exec (.fields [0x01, 0x0A, 0x00, 0x00, 0x00, 0x60, 0xAA, 0x55, 0x94, 0x6B]) ready) (fun t => t.reply) =
      some (.fields ⟨⟨0x01, 0x0A, 0x00, 0x00, 0x00, 0x60, 2, 0x94, 0x6B⟩, [0xAA, 0x55]⟩) := by decide

/-- V-ENCODE-3 and V-ENCODE-7. -/
theorem test_encode :
    after (exec (.encode 0xF0 [0x01, 0x02, 0x03]) ready) (fun t => t.reply) =
      some (.frame [0x01, 0x0B, 0x00, 0x00, 0x00, 0xF0, 0x01, 0x02, 0x03, 0xFA, 0x05]) ∧
      after (exec (.encode 0x60 []) { ready with params := ⟨0xA5, 0x60, 9, 6⟩ }) (fun t => t.reply) =
        some (.frame [0x01, 0x08, 0x00, 0x00, 0xA5, 0x60, 0xCC, 0x33]) := by decide

/-- V-DECODE-10: the bytes after the frame stay. -/
theorem test_decode_leaves_rest :
    after (exec .decode (inRound .idle [0xAA, 0x08, 0x00, 0x00, 0x00, 0x60, 0xC2, 0x3D, 0x01, 0x08]))
      (fun t => (t.f.sof, t.f.plen, t.rx, t.st, t.err)) = some (0xAA, 0, [0x01, 0x08], .idle, .none) := by decide

/-- V-DECODE-8, and V-DECODE-5 with the read cut short by its timeout. -/
theorem test_decode_errors :
    after (exec .decode (inRound .idle [0x01, 0x07, 0x55])) (fun t => (t.reply, t.rx)) =
      some (.raised .malformedFrame, [0x55]) ∧
      after (exec .decode { inRound .idle [0x01, 0x08, 0x00, 0x00, 0x77] with rxLimits := [2, 2] }) (fun t => (t.reply, t.rx)) =
        some (.raised .transportTimeout, [0x77]) := by decide

/-- V-STK-7. -/
theorem test_clear : after (exec .clear { ready with stk := [nib 1, nib 2] }) (fun t => (t.sp, t.stkEmpty)) = some (0, true) := by
  decide

/-- V-STK-3 and V-STK-4. -/
theorem test_push :
    after (exec (.push ⟨12, [0xA9, 0x05]⟩) ready) (fun t => t.stk) =
      some [⟨12, #v[0xA9, 0x05, 0, 0, 0, 0, 0, 0]⟩] ∧
      after (exec (.push ⟨4, [0x13]⟩) ready) (fun t => (t.stk, t.reply)) = some ([], .refused) := by decide

/-- V-STK-1 and V-STK-2. -/
theorem test_pop :
    after (exec .pop { ready with stk := [nib 0x00, nib 0x03] }) (fun t => (t.reply, t.stk)) =
      some (.mask ⟨4, [0x03]⟩, [nib 0x00]) ∧
      after (exec .pop ready) (fun t => (t.reply, t.sp)) = some (.refused, 0) := by decide

/-- V-BUILDREQ-3 and V-BUILDREQ-6. -/
theorem test_buildreq :
    after (exec (.buildreq ⟨12, [0xA9, 0x05]⟩) ready) (fun t => t.reply) =
      some (.payload [0x11, 0x07, 0x01, 0x0C, 0xA9, 0x05]) ∧
      after (exec (.buildreq ⟨8, [0xA9, 0x05]⟩) ready) (fun t => t.reply) = some .refused := by decide

/-- V-DERIVE-3 and V-DERIVE-5. -/
theorem test_derive :
    after (exec (.derive ⟨4, [0x03]⟩ 0xA) ready) (fun t => t.reply) = some (.mask ⟨8, [0xA3]⟩) ∧
      after (exec (.derive ⟨8, [0xA9]⟩ 5) ready) (fun t => t.reply) = some (.mask ⟨12, [0xA9, 0x05]⟩) := by decide

/-- V-DERIVE-8. -/
theorem test_derive_to_64 :
    after (exec (.derive ⟨60, [1, 2, 3, 4, 5, 6, 7, 9]⟩ 0xC) ready) (fun t => t.reply) =
      some (.mask ⟨64, [1, 2, 3, 4, 5, 6, 7, 0xC9]⟩) := by decide

/-- V-TAGPARSE-3: the reserved byte is ignored. -/
theorem test_tagparse :
    after (exec (.tagparse [0x00, 0xCC, 0xBB, 0xAA, 0x00, 0x00, 0x07, 0xE0, 0x00, 0xEE]) ready) (fun t => t.reply) =
      some (.tag ⟨0xE0070000AABBCC00, 0x00⟩) := by decide

/-- V-ISOMAP-1 and V-ISOMAP-2. -/
theorem test_isomap : ([0x01, 0x02, 0x04, 0x03, 0x05, 0xFF, 0x00].map fun c => after (exec (.isomap c) ready) (fun t => t.reply)) =
    [some (.meaning 0), some (.meaning 1), some (.meaning 2), some (.meaning 3), some (.meaning 3), some (.meaning 3),
      some (.meaning 3)] := by decide

/-- V-VSCAN-2. -/
theorem test_vscan : after (exec (.vscan 0x0302) ready) (fun t => t.reply) = some (.slots [1, 8, 9]) := by decide

/-- V-CSCAN-2 and V-CSCAN-3. -/
theorem test_cscan :
    after (exec (.cscan 0x0302) ready) (fun t => t.reply) = some (.slots [8, 1, 9]) ∧
      after (exec (.cscan 0xFFFF) ready) (fun t => t.reply) =
        some (.slots [0, 8, 1, 9, 2, 10, 3, 11, 4, 12, 5, 13, 6, 14, 7, 15]) := by decide

/-- A word placed where the coming step takes its operation from is run by it, from reset. -/
theorem test_placed_words_run :
    after (step (State.reset.withFetchWord 8 0x01)) (fun t => t.st) = some .roundSent ∧
      after (step (State.reset.withFetchWord 8 0x15)) (fun t => (t.st, t.cur.len)) = some (.roundSent, 4) ∧
      after (step (State.reset.withFetchWord 8 0x41)) (fun t => t.reply) = some (.mask ⟨4, [0]⟩) := by decide

/-! ### Witnesses: a concrete state and operands that meet the hypotheses of each statement -/

/-- The bytes of an empty frame and of a frame with the longest payload. -/
def shortest : List Byte := frameOf ready.params 0x60 []
def longest : List Byte := frameOf ready.params 0x60 (List.replicate 247 0xFF)

/-- A full-grown mask in CUR, of 60 and of 64 bits. -/
def cur60 : MaskReg := maskToReg ⟨60, [1, 2, 3, 4, 5, 6, 7, 9]⟩
def cur64 : MaskReg := maskToReg ⟨64, [1, 2, 3, 4, 5, 6, 7, 0xC9]⟩

/-- A session after EXTRACT in its first round, collisions in slots 0 and 3. -/
def colliding : State := { holding .processCollisions twoCollisions with coll := 0x0009 }

/-- The same session with its new masks pushed. -/
def branching : State := { colliding with st := .nextRound, stk := [nib 0x00, nib 0x03] }

/-- A session awaiting its first response, for the value VALID happens to hold. -/
def awaiting (valid : BitVec 16) : State := { inRound .roundSent quiet with valid := valid }

theorem twoCollisions_frame : IsFrame twoCollisions ∧ PairRight twoCollisions :=
  ⟨⟨by decide, by decide, by decide⟩, by decide, by decide⟩

theorem colliding_ok : colliding.Ok :=
  ⟨by decide, by decide, by decide, by decide, ⟨[], rfl⟩, by simp [colliding, holding, ready, State.reset],
    by decide, fun _ => by decide⟩

theorem colliding_session : colliding.SessionOk := by
  refine ⟨colliding_ok, by simp [colliding, holding, ready, State.reset], by simp [colliding, holding, ready, State.reset],
    ⟨by decide, by simp [colliding, holding, ready, State.reset], fun k => Nat.zero_le _⟩, fun _ => ?_⟩
  have e : colliding.heldFrame = twoCollisions := by decide +kernel
  unfold State.FrameHeld
  rw [e]
  exact ⟨twoCollisions_frame.1, twoCollisions_frame.2, by decide, by decide⟩

theorem branching_session : branching.SessionOk := by
  have h := colliding_session
  refine ⟨⟨h.ok.1, ?_, h.ok.3, h.ok.4, h.ok.5, by decide, by decide, fun _ => by decide⟩, h.outside, by decide,
    ⟨⟨by decide, by decide, ?_, by decide, fun hc => absurd hc (by decide)⟩, by decide, by decide⟩, fun _ => h.held rfl⟩
  · decide
  · intro k _
    exact Nat.le_trans List.countP_le_length (by decide)

theorem awaiting_session (v : BitVec 16) : (awaiting v).SessionOk := by
  have h0 : (awaiting 0).SessionOk :=
    ⟨⟨by decide, by decide, by decide, by decide, ⟨[], rfl⟩, by simp [awaiting, inRound, ready, State.reset], by decide,
        fun _ => by decide⟩,
      by simp [awaiting, inRound, ready, State.reset], by simp [awaiting, inRound, ready, State.reset],
      ⟨by decide, by simp [awaiting, inRound, ready, State.reset], fun k => Nat.zero_le _⟩, fun h => by cases h⟩
  exact ⟨⟨h0.ok.1, h0.ok.2, h0.ok.3, h0.ok.4, h0.ok.5, h0.ok.6, h0.ok.7, h0.ok.8⟩, h0.outside, h0.sorted, h0.tree,
    fun h => by cases h⟩

theorem witness_UnassignedCodes :
    ({ ready with inputs := [.host 3] } : State).inputs = .host 3 :: [] ∧
      ∀ i, (encode i).opw ≠ (⟨0x17, .none⟩ : Request).opw :=
  ⟨rfl, fun i => by cases i <;> simp [encode, opw]⟩

theorem witness_StepRunsDecodedOperation_host :
    ({ ready with inputs := [.host 1] } : State).inputs = .host 1 :: [] ∧
      decode ⟨(1 : BitVec 2).zeroExtend 8, .none⟩ = .ok .start := ⟨rfl, rfl⟩

theorem witness_StepRunsDecodedOperation_bench :
    ({ ready with inputs := [.bench ⟨0x32, .none⟩] } : State).inputs = .bench ⟨0x32, .none⟩ :: [] ∧
      decode ⟨0x32, .none⟩ = .ok .pop := ⟨rfl, rfl⟩

theorem witness_StepRunsDecodedOperation_sequencer :
    ({ inRound .nextRound [] with inputs := [.sequencer] } : State).inputs = .sequencer :: [] ∧
      (inRound .nextRound []).st.opw = some 0x15 ∧ (inRound .nextRound []).inputs = [] ∧
      decode ⟨0x15, .none⟩ = .ok .next := ⟨rfl, rfl, rfl, rfl⟩

theorem witness_SequencerDispatch :
    ready.inputs = [] ∧ (∃ rest, ({ ready with inputs := [.sequencer] } : State).inputs = .sequencer :: rest) ∧
      ∀ c : BitVec 2, ({ ready with inputs := [.host c] } : State).inputs.head? = some (.host c) :=
  ⟨rfl, ⟨[], rfl⟩, fun _ => rfl⟩

theorem witness_HardwareResetInAnyState :
    ({ colliding with inputs := [.hwReset, .host 1] } : State).inputs = .hwReset :: [.host 1] := rfl

theorem witness_StartBeginsSession :
    ready.st = .idle ∧ (inRound .done []).st = .done ∧ (inRound .fatal []).st = .fatal ∧
      (inRound .roundSent []).st ≠ .idle ∧ (inRound .roundSent []).st ≠ .done ∧ (inRound .roundSent []).st ≠ .fatal := by
  decide

theorem witness_CancelSetsFlagOnlyNextReads : Instr.pop ≠ .next ∧ Instr.pop ≠ .start ∧ Instr.pop ≠ .cancel := by decide

theorem witness_SendreqSendsCurrentMask :
    ready.curMask.shaped = true ∧ ({ ready with cur := cur64 } : State).curMask.shaped = true := by decide

theorem witness_RecvIsDecodeThenTransition :
    (inRound .roundSent quiet).st = .roundSent ∧ (inRound .roundSent []).st = .roundSent := ⟨rfl, rfl⟩

theorem witness_DecodeAcceptsFrame_shortest :
    IsFrame shortest ∧ PairRight shortest ∧ (inRound .roundSent (shortest ++ [0x01])).rx = shortest ++ [0x01] ∧
      NotCut 2 (inRound .roundSent shortest).rxLimits ∧
      NotCut (shortest.length - 2) (inRound .roundSent shortest).rxLimits.tail :=
  ⟨frameOf_isFrame _ _ _ (by decide), frameOf_pairRight _ _ _, rfl, Nat.le_refl _, Nat.le_refl _⟩

theorem witness_DecodeAcceptsFrame_longest :
    IsFrame longest ∧ longest.length = 255 ∧ PairRight longest ∧ (inRound .roundSent longest).rx = longest ++ [] ∧
      NotCut 2 (inRound .roundSent longest).rxLimits ∧
      NotCut (longest.length - 2) (inRound .roundSent longest).rxLimits.tail :=
  ⟨frameOf_isFrame _ _ _ (by decide +kernel), by rw [longest, frameOf_length]; decide +kernel, frameOf_pairRight _ _ _,
    (List.append_nil _).symm, Nat.le_refl _, Nat.le_refl _⟩

/-- Nothing arrives; one byte arrives; a body of 6 and one of 253 bytes come up short. -/
theorem witness_TransportTimeoutInFull :
    arrives 2 [] [] < 2 ∧ arrives 2 [] [0x01] < 2 ∧ arrives 2 [1] [0x01, 0x08] < 2 ∧
      8 ≤ (0x08 : Byte).toNat ∧ arrives ((0x08 : Byte).toNat - 2) [5] [0, 0, 0, 0, 0, 0] < (0x08 : Byte).toNat - 2 ∧
      8 ≤ (0xFF : Byte).toNat ∧ arrives ((0xFF : Byte).toNat - 2) [] [] < (0xFF : Byte).toNat - 2 ∧
      NotCut 2 [2, 5] ∧ (inRound .roundSent [0x01, 0x08, 0, 0, 0, 0, 0, 0]).st = .roundSent := by
  unfold NotCut; decide

theorem witness_ChecksumMismatchInFull :
    IsFrame (shortest.dropLast ++ [0x97]) ∧ ¬ PairRight (shortest.dropLast ++ [0x97]) ∧
      (inRound .roundSent (shortest.dropLast ++ [0x97])).rx = (shortest.dropLast ++ [0x97]) ++ [] ∧
      NotCut 2 [] ∧ NotCut ((shortest.dropLast ++ [0x97]).length - 2) [] :=
  ⟨⟨by decide, by decide, by decide⟩, fun h => absurd h.2 (by decide), rfl, Nat.le_refl _, Nat.le_refl _⟩

/-- RECV, and DECODE alone, that raise ChecksumMismatch. -/
theorem witness_ChecksumMismatchInFull_only :
    let s := inRound .roundSent (shortest.dropLast ++ [0x97])
    after (exec .recv s) (fun t => (t.st, t.err)) = some (.fatal, .checksumMismatch) ∧ s.st ≠ .fatal ∧
      after (exec .decode s) (fun t => t.reply) = some (.raised .checksumMismatch) := ⟨rfl, by decide, rfl⟩

theorem witness_MalformedFrameInFull :
    (inRound .roundSent [0x01, 0x00]).rx = 0x01 :: 0x00 :: [] ∧ (0x00 : Byte).toNat < 8 ∧ (0x07 : Byte).toNat < 8 ∧
      NotCut 2 (inRound .roundSent [0x01, 0x07]).rxLimits := ⟨rfl, by decide, by decide, Nat.le_refl _⟩

/-- An error frame with a code; an error frame with code 0; a frame of another length. -/
theorem witness_IsochkChecksErrorFrame :
    let a := holding .roundReceived [0x01, 0x09, 0x00, 0x00, 0x00, 0x60, 0x01, 0x69, 0x96]
    let b := holding .roundReceived [0x01, 0x09, 0x00, 0x00, 0x00, 0x60, 0x00, 0x68, 0x97]
    let c := holding .roundReceived quiet
    a.f.len = a.params.errFrameLen ∧ a.rxb[a.params.errCodeOff] ≠ 0 ∧ b.rxb[b.params.errCodeOff] = 0 ∧
      c.f.len ≠ c.params.errFrameLen := by decide

/-- P = 3; P = 13 with one tag; P = 4 and P = 14 that fit; TAGCNT at its limit. -/
theorem witness_ExtractAppendsTags :
    (3 : Byte).toNat < 4 ∧ (13 : Byte).toNat < 4 + 10 * setBits 0x0001 ∧
      4 + 10 * setBits 0x0000 ≤ (holding .extractTags quiet).f.plen.toNat ∧
      4 + 10 * setBits 0x0001 ≤ (holding .extractTags oneTag).f.plen.toNat ∧
      2 ^ 32 - 1 < (0xFFFFFFFF : BitVec 32).toNat + setBits 0x0001 ∧
      (0xFFFFFFFE : BitVec 32).toNat + setBits 0x0001 ≤ 2 ^ 32 - 1 := by decide

theorem witness_ExtractAppendsTags_state :
    after (exec .extract { holding .extractTags oneTag with tagcnt := 0xFFFFFFFF }) (fun t => (t.err, t.tags)) =
      some (.resultOverflow, []) ∧
      after (exec .extract { holding .extractTags oneTag with f := { (fieldsOf oneTag).regs with plen := 13 } })
        (fun t => t.err) = some .malformedResponse := by decide

theorem witness_CollidePushesNewMasks :
    cur60.ok = true ∧ cur60.len.toNat ≤ 60 ∧ (List.replicate 240 (nib 1)).length + setBits 0xFFFF ≤ 256 ∧
      colliding.st = .processCollisions := by decide +kernel

theorem witness_FatalchkChooses :
    (0x0020 : BitVec 16) ≠ 0 ∧ cur60.len = 60 ∧ cur64.len ≠ 60 ∧ (inRound .pushMasks []).coll = 0 ∧
      (inRound .pushMasks []).stk = [] ∧ [nib 0] ≠ [] := by decide

theorem witness_NextPopsAndSends :
    let s := { inRound .nextRound [] with stk := [nib 0x00, nib 0x03] }
    s.st = .nextRound ∧ s.cancelReq = false ∧ s.stk = [nib 0x00] ++ [nib 0x03] ∧ (nib 0x03).ok = true ∧ cur60.ok = true ∧
      ({ s with cancelReq := true } : State).cancelReq = true := by decide

theorem witness_MicroOperationRefusedElsewhere :
    ready.st ≠ .roundSent ∧ ready.st ≠ .roundReceived ∧ ready.st ≠ .extractTags ∧ ready.st ≠ .processCollisions ∧
      ready.st ≠ .pushMasks ∧ ready.st ≠ .nextRound := by decide

theorem witness_StopsByName :
    (∀ i, (encode i).opw ≠ (⟨0x03, .none⟩ : Request).opw) ∧
      ({ ready with inputs := [.bench ⟨0x03, .none⟩] } : State).inputs = .bench ⟨0x03, .none⟩ :: [] ∧
      ({ ready with cur := ⟨3, #v[0, 0, 0, 0, 0, 0, 0, 0]⟩ } : State).curMask.shaped = false ∧
      (inRound .nextRound []).stk = [] ∧ (inRound .nextRound []).cancelReq = false ∧
      ({ colliding with cur := ⟨4, #v[0x13, 0, 0, 0, 0, 0, 0, 0]⟩ } : State).curMask.wellFormed = false ∧
      60 < cur64.len.toNat ∧ 256 ≤ (List.replicate 256 (nib 1)).length ∧ colliding.coll ≠ 0 :=
  ⟨fun i => by cases i <;> simp [encode, opw], rfl, by decide, rfl, rfl, by decide, by decide, by decide +kernel, by decide⟩

theorem witness_VerifyTestsBothBytes : 2 ≤ ([0x00, 0xFF] : List Byte).length := by decide

theorem witness_VerifyDetectsSingleBit :
    2 ≤ shortest.length ∧ 7 < shortest.length ∧ 7 < 8 ∧ PairRight shortest ∧ (5 : Nat) ≠ 4 ∧ 5 < shortest.length - 2 ∧
      4 < shortest.length - 2 := ⟨by decide, by decide, by decide, frameOf_pairRight _ _ _, by decide, by decide, by decide⟩

theorem witness_FieldsExtracts_EncodeBuildsFrame :
    ([] : List Byte).length ≤ 247 ∧ (List.replicate 247 (0xFF : Byte)).length ≤ 247 ∧
      247 < (List.replicate 248 (0 : Byte)).length := by decide +kernel

theorem witness_CodecRoundTrip :
    let s := inRound .idle (shortest ++ [0x01])
    exec (.encode 0x60 []) s = .next { s with reply := .frame shortest } ∧ s.rx = shortest ++ [0x01] ∧
      NotCut 2 s.rxLimits ∧ NotCut (([] : List Byte).length + 6) s.rxLimits.tail := ⟨rfl, rfl, Nat.le_refl _, Nat.le_refl _⟩

theorem witness_FrameSelfConsistency :
    exec (.encode 0x60 []) ready = .next { ready with reply := .frame shortest } ∧
      ∃ t r, exec .decode (inRound .idle shortest) = .next t ∧ t.reply = .fields r := ⟨rfl, _, _, rfl, rfl⟩

theorem witness_PushAppendsEntry_PushThenPopReturnsMask :
    ready.stk.length < 256 ∧ Mask.wellFormed ⟨4, [0x03]⟩ = true ∧ (nib 0x03).len.toNat = 4 ∧
      (nib 0x03).bytes.toList = [0x03] ++ List.replicate (8 - 1) 0 ∧ 256 ≤ (List.replicate 256 (nib 1)).length ∧
      Mask.wellFormed ⟨4, [0x13]⟩ = false := by decide +kernel

theorem witness_PopReturnsLastPushed :
    ({ ready with stk := [nib 0x00, nib 0x03] } : State).stk = [nib 0x00] ++ [nib 0x03] ∧ ready.stk = [] := ⟨rfl, rfl⟩

/-- The empty mask and the longest; lengths 6 and 68; a byte too many. -/
theorem witness_BuildreqPayload :
    0 % 4 = 0 ∧ ([] : List Byte).length = (0 + 7) / 8 ∧ (64 : Nat) ≤ 64 ∧ (List.replicate 8 (0x55 : Byte)).length = (64 + 7) / 8 ∧
      6 % 4 ≠ 0 ∧ 64 < 68 ∧ ([0xA9, 0x05] : List Byte).length ≠ (8 + 7) / 8 := by decide

/-- The empty mask, an unpaired nibble, 60 bits; slots 0 and 15; 64 bits, slot 16, a mask that is not canonical. -/
theorem witness_DerivePlacesSlot_DeriveGrowsByOneNibble :
    Mask.wellFormed ⟨0, []⟩ = true ∧ Mask.wellFormed ⟨4, [0x0F]⟩ = true ∧
      Mask.wellFormed ⟨60, [1, 2, 3, 4, 5, 6, 7, 9]⟩ = true ∧ (60 : Nat) ≤ 60 ∧ 0 ≤ 15 ∧ 15 ≤ 15 ∧
      Mask.wellFormed ⟨4, [0x13]⟩ = false ∧ 60 < 64 ∧ 15 < 16 := by decide

theorem witness_TagparseReadsBlock : (List.replicate 10 (0xFF : Byte)).length = 10 ∧ 0 < 8 ∧ 7 < 8 := by decide

theorem witness_OutsideDomainRefused :
    ([0x00] : List Byte).length < 2 ∧ (List.replicate 7 (0 : Byte)).length < 8 ∧
      255 < (List.replicate 256 (0 : Byte)).length ∧ (List.replicate 9 (0 : Byte)).length ≠ 10 := by decide +kernel

theorem witness_PureOperationsTouchNoRegister : isPure (.encode 0x60 []) = true ∧ isPure .nop = true := by decide

theorem witness_WellFormedMaskMeans : Mask.wellFormed ⟨4, [0x0F]⟩ = true ∧ 0 < 8 ∧ 7 < 8 := by decide

theorem witness_DecodeEncodeAgree : decode ⟨0x31, .mask ⟨6, []⟩⟩ = .ok (.push ⟨6, []⟩) := rfl

theorem witness_AccessTableFrames_TagsOnlyGrow_ErrorsDoNotNest :
    exec .cancel ready = .next { ready with cancelReq := true, reply := .none } ∧ Instr.cancel ≠ .start ∧
      exec .cancel (inRound .fatal []) = .next { inRound .fatal [] with cancelReq := true, reply := .none } ∧
      (inRound .fatal []).st = .fatal ∧ (inRound .fatal []).inputs = [] := ⟨rfl, by decide, rfl, rfl, rfl⟩

/-- One operation and state for each row of the transition table. -/
theorem witness_TransitionRelation :
    let st := fun (i : Instr) (s : State) => after (exec i s) fun t => t.st
    st .start ready = some .roundSent ∧ st .start (inRound .done []) = some .roundSent ∧
      st .start (inRound .fatal []) = some .roundSent ∧ st .start (inRound .extractTags []) = some .extractTags ∧
      st .recv (inRound .roundSent quiet) = some .roundReceived ∧ st .recv (inRound .roundSent []) = some .fatal ∧
      st .isochk (holding .roundReceived [0x01, 0x09, 0x00, 0x00, 0x00, 0x60, 0x01, 0x69, 0x96]) = some .fatal ∧
      st .isochk (holding .roundReceived quiet) = some .extractTags ∧
      st .extract (holding .extractTags shortest) = some .fatal ∧
      st .extract { holding .extractTags oneTag with tagcnt := 0xFFFFFFFF } = some .fatal ∧
      st .extract (holding .extractTags quiet) = some .processCollisions ∧ st .collide colliding = some .pushMasks ∧
      st .fatalchk { inRound .pushMasks [] with cur := cur60, coll := 1 } = some .fatal ∧
      st .fatalchk { inRound .pushMasks [] with stk := [nib 0] } = some .nextRound ∧
      st .fatalchk (inRound .pushMasks []) = some .done ∧
      st .next { inRound .nextRound [] with stk := [nib 0], cancelReq := true } = some .fatal ∧
      st .next { inRound .nextRound [] with stk := [nib 0] } = some .roundSent :=
  ⟨rfl, rfl, rfl, rfl, rfl, rfl, rfl, rfl, rfl, rfl, rfl, rfl, rfl, rfl, rfl, rfl, rfl⟩

theorem witness_RefusalChangesNothing :
    ∃ t, exec .pop ready = .next t ∧ t.reply = .refused ∧ Instr.pop ≠ .nop := ⟨_, rfl, rfl, by decide⟩

theorem witness_EveryStepKeepsOk : colliding.Ok ∧ ∃ t, step colliding = .next t := ⟨colliding_ok, _, rfl⟩

theorem witness_EveryStepKeepsSession : colliding.SessionOk ∧ ∃ t, step colliding = .next t := ⟨colliding_session, _, rfl⟩

theorem witness_SessionNeverStops : colliding.SessionOk := colliding_session

theorem witness_SessionTerminates :
    colliding.SessionOk ∧ colliding.busy = true ∧ branching.SessionOk ∧ branching.stk ≠ [] ∧ branching.busy = true :=
  ⟨colliding_session, rfl, branching_session, by decide, rfl⟩

theorem witness_OccupancyBound :
    colliding.SessionOk ∧ colliding.st = .processCollisions ∧ branching.SessionOk ∧ branching.st = .nextRound :=
  ⟨colliding_session, rfl, branching_session, rfl⟩

theorem witness_UnspecifiedNeverRead :
    (awaiting 0).SessionOk ∧ (awaiting 1).SessionOk ∧ (awaiting 0).valid ≠ (awaiting 1).valid ∧
      (awaiting 0).specified = (awaiting 1).specified :=
  ⟨awaiting_session 0, awaiting_session 1, by decide, rfl⟩

theorem witness_OneRoundInFlight :
    let s := { inRound .roundSent quiet with link := [.write (requestOf ready.params ⟨0, []⟩)], inputs := [.host 2] }
    (∀ x ∈ s.inputs, x.fromOutside = true ∧ x ≠ .hwReset) ∧ s.OneInFlight ∧ ∃ t, step s = .next t := by
  refine ⟨by decide, ⟨List.isChain_singleton _, fun _ _ _ => rfl⟩, _, rfl⟩

theorem witness_LastPushedExploredFirst :
    colliding.SessionOk ∧ colliding.inputs = [] ∧ colliding.st = .processCollisions ∧ colliding.cancelReq = false ∧
      colliding.cur.len.toNat < 60 ∧ cscan colliding.coll = [0] ++ [3] :=
  ⟨colliding_session, rfl, rfl, rfl, by decide, by decide⟩

end Sys2Proof.Tests
end

/-! PROOF. A refused operation changes nothing but the report (00_scope.md R13, 60_exceptions.md R186). The operations
fall into two kinds: the pure ones write nothing but the report whatever it says, and each of the others either refuses
or reports something else. -/

namespace Sys2Proof.Machine

/-- NOP keeps the report that stands; every other pure operation writes one, of a result or of a refusal. -/
theorem exec_pure_eq_report {i : Instr} {s : State} (hp : isPure i = true) : ∃ r, exec i s = .next (s.report r) := by
  cases i with
  | nop => exact ⟨s.reply, rfl⟩
  | csum | isomap | vscan | cscan => exact ⟨_, rfl⟩
  | verify | fields | tagparse =>
    simp only [exec, execVerify, execFields, execTagparse]
    split <;> exact ⟨_, rfl⟩
  | encode | buildreq | derive =>
    simp only [exec, execEncode, execBuildreq, execDerive]
    split <;> exact ⟨_, rfl⟩
  | start | cancel | recv | isochk | extract | collide | fatalchk | next | sendreq => cases hp
  | decode | clear | push | pop => cases hp

/-- An operation that is not pure and does not refuse reports something else: no result, a result or an error. -/
theorem exec_impure_eq_refuse_or_reply_ne {i : Instr} {s t : State} (hp : isPure i = false) (h : exec i s = .next t) :
    t = s.refuse ∨ t.reply ≠ .refused := by
  cases i with
  | start => rcases start_cases h with ⟨-, e⟩ | ⟨-, rfl⟩; exacts [.inl e, .inr nofun]
  | cancel => cases h; exact .inr nofun
  | recv =>
    rcases recv_cases h with ⟨-, e⟩ | ⟨-, ⟨_, _, _, -, -, -, rfl⟩ | ⟨_, _, _, _, -, -, -, -, rfl⟩⟩
    exacts [.inl e, .inr nofun, .inr nofun]
  | isochk =>
    rcases isochk_cases h with ⟨-, e⟩ | ⟨-, ⟨-, -, rfl⟩ | ⟨-, rfl⟩⟩
    exacts [.inl e, .inr nofun, .inr nofun]
  | extract =>
    rcases extract_cases h with ⟨-, e⟩ | ⟨-, ⟨-, rfl⟩ | ⟨-, -, rfl⟩ | ⟨-, _, _, _, -, -, rfl⟩⟩
    exacts [.inl e, .inr nofun, .inr nofun, .inr nofun]
  | collide => rcases collide_cases h with ⟨-, e⟩ | ⟨-, _, -, -, -, rfl⟩; exacts [.inl e, .inr nofun]
  | fatalchk =>
    rcases fatalchk_cases h with ⟨-, e⟩ | ⟨-, ⟨-, -, rfl⟩ | ⟨-, -, rfl⟩ | ⟨-, -, rfl⟩⟩
    exacts [.inl e, .inr nofun, .inr nofun, .inr nofun]
  | next =>
    rcases next_cases h with ⟨-, e⟩ | ⟨-, ⟨-, rfl⟩ | ⟨-, _, _, -, -, rfl⟩⟩
    exacts [.inl e, .inr nofun, .inr nofun]
  | sendreq => obtain ⟨-, rfl⟩ := sendreq_cases h; exact .inr nofun
  | decode =>
    rcases decode_cases h with ⟨_, _, _, -, -, -, rfl⟩ | ⟨_, _, _, _, -, -, -, rfl⟩
    exacts [.inr nofun, .inr nofun]
  | clear => cases h; exact .inr nofun
  | push => rcases push_cases h with e | ⟨-, -, rfl⟩; exacts [.inl e, .inr nofun]
  | pop => rcases pop_cases h with ⟨-, e⟩ | ⟨_, _, -, rfl⟩; exacts [.inl e, .inr nofun]
  | nop | csum | verify | fields | encode | buildreq | derive | tagparse | isomap | vscan | cscan => cases hp

/-- A next state that reports a refusal is `refuse` of the state before: NOP included, whose report stood already. -/
theorem exec_eq_refuse {i : Instr} {s t : State} (h : exec i s = .next t) (hr : t.reply = .refused) : t = s.refuse := by
  cases hp : isPure i with
  | true =>
    obtain ⟨r, e⟩ := exec_pure_eq_report (s := s) hp
    cases e.symm.trans h
    rw [report_reply] at hr
    rw [hr, State.refuse]
  | false => exact (exec_impure_eq_refuse_or_reply_ne hp h).resolve_right (not_not_intro hr)

/-- Settles O49: whatever the operation, a next state that reports a refusal is `refuse` of the state before. -/
theorem refusalChangesNothing : Obligations.RefusalChangesNothing := by
  intro _ _ _ _ h hr
  exact exec_eq_refuse h hr

end Sys2Proof.Machine

/-! PROOF. The registers (10_state.md): which operation may write which (R39), and the invariant that every step keeps
(R10, R24, R30, R31, R33, R36, R38). -/

namespace Sys2Proof.Machine

/-! ### What an operation may write -/

/-- A pure operation that completes has written the report only. -/
theorem exec_pure_next {i : Instr} {s t : State} (h : exec i s = .next t) (hp : isPure i = true) :
    ∃ r, t = s.report r := by
  obtain ⟨r, e⟩ := exec_pure_eq_report (s := s) hp
  cases e.symm.trans h
  exact ⟨r, rfl⟩

/-- Settles O45: a report is all that a pure operation writes. -/
theorem pureOperationsTouchNoRegister : Obligations.PureOperationsTouchNoRegister := by
  intro i s hp
  exact exec_pure_eq_report hp

/-- A read writes no frame. -/
theorem written?_of_isWrite_false {e : LinkEvent} (h : e.isWrite = false) : e.written? = none := by
  cases e with
  | write frame => cases h
  | read asked got => rfl

/-- Reads of the Transport leave the TX stream as it was (20_memory.md R61, R62). -/
theorem filterMap_written?_append_reads (link : List LinkEvent) {reads : List LinkEvent}
    (h : ∀ e ∈ reads, e.isWrite = false) :
    (link ++ reads).filterMap LinkEvent.written? = link.filterMap LinkEvent.written? := by
  have hnil : reads.filterMap LinkEvent.written? = [] :=
    List.filterMap_eq_nil_iff.2 fun e he => written?_of_isWrite_false (h e he)
  rw [List.filterMap_append, hnil, List.append_nil]

/-- Settles O46: the next states of each operation, one by one, against the rows of R39. -/
theorem accessTableFrames : Obligations.AccessTableFrames := by
  intro i s t h
  simp only [State.txFrames]
  cases i with
  | start => rcases start_cases h with ⟨-, rfl⟩ | ⟨-, rfl⟩ <;> simp
  | cancel => cases h; simp
  | recv =>
    rcases recv_cases h with ⟨-, rfl⟩ | ⟨-, ⟨_, _, _, -, -, -, rfl⟩ | ⟨_, _, _, _, -, -, hreads, -, rfl⟩⟩
    · simp
    · simp [LinkEvent.written?]
    · simp [filterMap_written?_append_reads _ hreads]
  | isochk => rcases isochk_cases h with ⟨-, rfl⟩ | ⟨-, ⟨-, -, rfl⟩ | ⟨-, rfl⟩⟩ <;> simp
  | extract =>
    rcases extract_cases h with ⟨-, rfl⟩ | ⟨-, ⟨-, rfl⟩ | ⟨-, -, rfl⟩ | ⟨-, _, _, _, -, -, rfl⟩⟩ <;> simp
  | collide => rcases collide_cases h with ⟨-, rfl⟩ | ⟨-, _, -, -, -, rfl⟩ <;> simp
  | fatalchk => rcases fatalchk_cases h with ⟨-, rfl⟩ | ⟨-, ⟨-, -, rfl⟩ | ⟨-, -, rfl⟩ | ⟨-, -, rfl⟩⟩ <;> simp
  | next => rcases next_cases h with ⟨-, rfl⟩ | ⟨-, ⟨-, rfl⟩ | ⟨-, _, _, -, -, rfl⟩⟩ <;> simp
  | sendreq => obtain ⟨-, rfl⟩ := sendreq_cases h; simp
  | decode =>
    rcases decode_cases h with ⟨_, _, _, -, -, -, rfl⟩ | ⟨_, _, _, _, -, hreads, -, rfl⟩
    · simp [LinkEvent.written?]
    · simp [filterMap_written?_append_reads _ hreads]
  | clear => cases h; simp
  | push => rcases push_cases h with rfl | ⟨-, -, rfl⟩ <;> simp
  | pop => rcases pop_cases h with ⟨-, rfl⟩ | ⟨_, _, -, rfl⟩ <;> simp
  | nop | csum | verify | fields | encode | buildreq | derive | tagparse | isomap | vscan | cscan =>
    obtain ⟨r, rfl⟩ := exec_pure_next h rfl
    simp

/-- Settles O50: by the access table only EXTRACT appends to the channel, and only START empties TAGS. -/
theorem tagsOnlyGrow : Obligations.TagsOnlyGrow := by
  intro i s t h
  obtain ⟨-, -, -, -, htagOut, -, -, -, -, htags, -⟩ := accessTableFrames i s t h
  by_cases hstart : i = .start
  · subst hstart
    refine ⟨⟨[], by simpa using (htagOut nofun).2.2, fun hne => absurd rfl hne⟩, fun _ => ?_⟩
    rcases start_cases h with ⟨-, rfl⟩ | ⟨-, rfl⟩
    · exact .inl rfl
    · exact .inr rfl
  refine ⟨?_, fun he => absurd he hstart⟩
  by_cases hextract : i = .extract
  · subst hextract
    rcases extract_cases h with ⟨-, rfl⟩ | ⟨-, ⟨-, rfl⟩ | ⟨-, -, rfl⟩ | ⟨-, v, c, recs, -, -, rfl⟩⟩
    · exact ⟨[], by simp⟩
    · exact ⟨[], by simp⟩
    · exact ⟨[], by simp⟩
    · exact ⟨recs, rfl, fun _ => rfl⟩
  · exact ⟨[], by simpa using (htagOut hextract).2.2, fun _ => by simpa using (htags hstart hextract).1⟩

/-! ### Raising an error and moving on, under the invariant of every step -/

/-- A session runs in neither Idle nor Fatal. -/
theorem St.ne_of_busy {st : St} (h : st.busy = true) : st ≠ .idle ∧ st ≠ .fatal := by
  constructor <;> rintro rfl <;> cases h

/-- A report is no register. -/
theorem State.Ok.report {s : State} (h : s.Ok) (r : Reply) : (s.report r).Ok := { h with }

/-- Refusing keeps the registers. -/
theorem State.Ok.refuse {s : State} (h : s.Ok) : s.refuse.Ok := h.report _

/-- Outside Fatal no error stands and no ISO error code. -/
theorem State.Ok.no_error {s : State} (h : s.Ok) (hst : s.st ≠ .fatal) : s.err = .none ∧ s.isocode = 0 := by
  have he : s.err = .none := by_contra fun hn => hst (h.errFatal.1 hn)
  exact ⟨he, by_contra fun hn => by simpa [he] using h.isoCode.1 hn⟩

/-- An error other than IsoError, raised in a running session, leaves ISOCODE at 0x00. -/
theorem State.Ok.raise {s : State} (h : s.Ok) {e : Err} (hst : s.st.busy = true) (hn : e ≠ .none) (hi : e ≠ .isoError) :
    (s.raise e).Ok :=
  { h with
    errFatal := by simp [hn]
    isoCode := by simp [(h.no_error (St.ne_of_busy hst).2).2, hi]
    current := fun _ => h.current (St.ne_of_busy hst).1 }

/-- A running session moves on to another ST than Fatal. -/
theorem State.Ok.move {s : State} (h : s.Ok) {st : St} (r : Reply) (hst : s.st.busy = true) (hf : st ≠ .fatal) :
    ({ s with st := st, reply := r } : State).Ok :=
  { h with
    errFatal := by simp [(h.no_error (St.ne_of_busy hst).2).1, hf]
    current := fun _ => h.current (St.ne_of_busy hst).1 }

/-- The records EXTRACT appends are counted in TAGCNT and emitted on the TAG channel. -/
theorem State.Ok.tagCount_append {s : State} (h : s.Ok) {recs : List TagRecord} {n : Nat} (hn : recs.length = n)
    (hmax : s.tagcnt.toNat + n < 2 ^ 32) : (s.tagcnt + BitVec.ofNat 32 n).toNat = (s.tags ++ recs).length := by
  rw [List.length_append, hn, ← h.tagCount, BitVec.toNat_add, BitVec.toNat_ofNat]
  omega

/-- A stack is kept by taking entries off its end. -/
theorem State.Ok.stack_of_append {s : State} (h : s.Ok) {rest top : List MaskReg} (hs : s.stk = rest ++ top) :
    (∀ r ∈ rest, r.ok = true) ∧ rest.length ≤ 256 := by
  have hd := h.depth
  rw [hs, List.length_append] at hd
  exact ⟨fun r hr => h.stack r (by simp [hs, hr]), by omega⟩

/-- Well-formed masks may be put on the stack. -/
theorem State.Ok.stack_append {s : State} (h : s.Ok) {new : List MaskReg} (hn : ∀ r ∈ new, r.ok = true) :
    ∀ r ∈ s.stk ++ new, r.ok = true :=
  fun r hr => (List.mem_append.1 hr).elim (h.stack r) (hn r)

/-! ### Operation by operation

Each proof goes through the cases of the operation's next states; `{ h with … }` names the clauses the case touches. -/

theorem start_keeps_ok {s t : State} (h : s.Ok) (hx : exec .start s = .next t) : t.Ok := by
  rcases start_cases hx with ⟨-, rfl⟩ | ⟨-, rfl⟩
  · exact h.refuse
  · exact { params := h.params, errFatal := by simp, isoCode := by simp, tagCount := rfl, tagChannel := List.nil_suffix
            stack := nofun, depth := Nat.zero_le _, current := fun _ => empty_ok }

theorem recv_keeps_ok {s t : State} (h : s.Ok) (hx : exec .recv s = .next t) : t.Ok := by
  rcases recv_cases hx with ⟨-, rfl⟩ | ⟨hst, ⟨f, rest, limits, -, -, -, rfl⟩ | ⟨e, rx, limits, reads, he, -, -, -, rfl⟩⟩
  · exact h.refuse
  · exact { h.move (st := .roundReceived) .none (by rw [hst]; rfl) nofun with }
  · have hraised : (s.raise e).Ok := by
      refine h.raise (by rw [hst]; rfl) ?_ ?_ <;> rcases he with rfl | rfl | rfl <;> nofun
    exact { hraised with }

theorem isochk_keeps_ok {s t : State} (h : s.Ok) (hx : exec .isochk s = .next t) : t.Ok := by
  rcases isochk_cases hx with ⟨-, rfl⟩ | ⟨hst, ⟨-, hcode, rfl⟩ | ⟨-, rfl⟩⟩
  · exact h.refuse
  · exact { h with errFatal := by simp, isoCode := by simpa using hcode
                   current := fun _ => h.current (by rw [hst]; nofun) }
  · exact h.move _ (by rw [hst]; rfl) nofun

theorem extract_keeps_ok {s t : State} (h : s.Ok) (hx : exec .extract s = .next t) : t.Ok := by
  rcases extract_cases hx with ⟨-, rfl⟩ | ⟨hst, hcase⟩
  · exact h.refuse
  have hbusy : s.st.busy = true := by rw [hst]; rfl
  rcases hcase with ⟨-, rfl⟩ | ⟨-, -, rfl⟩ | ⟨-, v, c, recs, hlen, hmax, rfl⟩
  · exact h.raise hbusy nofun nofun
  · exact h.raise hbusy nofun nofun
  · exact { h.move (st := .processCollisions) .none hbusy nofun with
            tagCount := h.tagCount_append hlen hmax
            tagChannel := (List.suffix_append_inj_of_length_eq rfl).2 ⟨h.tagChannel, rfl⟩ }

theorem collide_keeps_ok {s t : State} (h : s.Ok) (hx : exec .collide s = .next t) : t.Ok := by
  rcases collide_cases hx with ⟨-, rfl⟩ | ⟨hst, new, -, hnew, hlen, rfl⟩
  · exact h.refuse
  · exact { h.move (st := .pushMasks) .none (by rw [hst]; rfl) nofun with
            stack := h.stack_append hnew
            depth := hlen.trans (max_le le_rfl h.depth) }

theorem fatalchk_keeps_ok {s t : State} (h : s.Ok) (hx : exec .fatalchk s = .next t) : t.Ok := by
  rcases fatalchk_cases hx with ⟨-, rfl⟩ | ⟨hst, hcase⟩
  · exact h.refuse
  have hbusy : s.st.busy = true := by rw [hst]; rfl
  rcases hcase with ⟨-, -, rfl⟩ | ⟨-, -, rfl⟩ | ⟨-, -, rfl⟩
  · exact h.raise hbusy nofun nofun
  · exact h.move _ hbusy nofun
  · exact h.move _ hbusy nofun

theorem next_keeps_ok {s t : State} (h : s.Ok) (hx : exec .next s = .next t) : t.Ok := by
  rcases next_cases hx with ⟨-, rfl⟩ | ⟨hst, ⟨-, rfl⟩ | ⟨-, rest, r, hs, -, rfl⟩⟩
  · exact h.refuse
  · exact h.raise (by rw [hst]; rfl) nofun nofun
  · obtain ⟨hrest, hlen⟩ := h.stack_of_append hs
    have hr : r.ok = true := h.stack r (by simp [hs])
    exact { h.move (st := .roundSent) .none (by rw [hst]; rfl) nofun with
            stack := hrest, depth := hlen
            current := fun _ => by rwa [((ok_iff r).1 hr).2] }

theorem push_keeps_ok {m : Mask} {s t : State} (h : s.Ok) (hx : exec (.push m) s = .next t) : t.Ok := by
  rcases push_cases hx with rfl | ⟨hlt, hm, rfl⟩
  · exact h.refuse
  · exact { h with stack := h.stack_append (by simpa using (maskToReg_ok m hm).1)
                   depth := by simpa using hlt }

theorem pop_keeps_ok {s t : State} (h : s.Ok) (hx : exec .pop s = .next t) : t.Ok := by
  rcases pop_cases hx with ⟨-, rfl⟩ | ⟨rest, r, hs, rfl⟩
  · exact h.refuse
  · obtain ⟨hrest, hlen⟩ := h.stack_of_append hs
    exact { h with stack := hrest, depth := hlen }

/-- Every operation that completes keeps the register invariants. -/
theorem exec_keeps_ok {i : Instr} {s t : State} (h : s.Ok) (hx : exec i s = .next t) : t.Ok := by
  cases i with
  | start => exact start_keeps_ok h hx
  | cancel => cases hx; exact { h with }
  | recv => exact recv_keeps_ok h hx
  | isochk => exact isochk_keeps_ok h hx
  | extract => exact extract_keeps_ok h hx
  | collide => exact collide_keeps_ok h hx
  | fatalchk => exact fatalchk_keeps_ok h hx
  | next => exact next_keeps_ok h hx
  | sendreq => obtain ⟨-, rfl⟩ := sendreq_cases hx; exact { h with }
  | decode =>
    rcases decode_cases hx with ⟨f, rest, limits, -, -, -, rfl⟩ | ⟨e, rx, limits, reads, -, -, -, rfl⟩
    · exact { h with }
    · exact { h with }
  | clear => cases hx; exact { h with stack := nofun, depth := Nat.zero_le _ }
  | push => exact push_keeps_ok h hx
  | pop => exact pop_keeps_ok h hx
  | nop | csum | verify | fields | encode | buildreq | derive | tagparse | isomap | vscan | cscan =>
    obtain ⟨r, rfl⟩ := exec_pure_next hx rfl
    exact h.report r

/-- The reset input empties what the invariant speaks of, whatever the state; the parameters and the TAG channel stay. -/
theorem hardReset_ok {s : State} (hp : s.params.ok = true) : (hardReset s).Ok where
  params := hp
  errFatal := by simp
  isoCode := by simp
  tagCount := rfl
  tagChannel := List.nil_suffix
  stack := nofun
  depth := Nat.zero_le _
  current hst := absurd rfl hst

/-- Settles O53: a step is a reset, a wait, an operation, or the refusal of a host code that is none. -/
theorem everyStepKeepsOk : Obligations.EveryStepKeepsOk := by
  intro s t h hstep
  have hconsume : s.consume.Ok := { h with }
  rcases step_cases hstep with ⟨-, rfl⟩ | ⟨-, rfl⟩ | ⟨_, _, -, ⟨i, -, hx⟩ | ⟨-, -, rfl⟩⟩
  · exact hardReset_ok hconsume.params
  · exact hconsume
  · exact exec_keeps_ok hconsume hx
  · exact hconsume.refuse

end Sys2Proof.Machine

/-! PROOF. ROUNDS and VALID are read by no operation (10_state.md R27, R35): clearing them before an operation or after
it makes no difference. -/

namespace Sys2Proof.Machine

/-- The state with ROUNDS and VALID cleared. -/
def State.clearRoundsValid (s : State) : State := { s with rounds := 0, valid := 0 }

@[simp] theorem clearRoundsValid_params (s : State) : s.clearRoundsValid.params = s.params := rfl
@[simp] theorem clearRoundsValid_coll (s : State) : s.clearRoundsValid.coll = s.coll := rfl
@[simp] theorem clearRoundsValid_curMask (s : State) : s.clearRoundsValid.curMask = s.curMask := rfl

/-- A reception does not read ROUNDS or VALID, and does not write them. -/
theorem receiveFrame_clearRoundsValid (s : State) :
    receiveFrame s.clearRoundsValid = ((receiveFrame s).1, (receiveFrame s).2.clearRoundsValid) := by
  have hread (n : Nat) (u : State) : memRead n u.clearRoundsValid = ((memRead n u).1, (memRead n u).2.clearRoundsValid) := rfl
  simp only [receiveFrame, hread]
  split_ifs <;> rfl

/-- PUSH does not read ROUNDS or VALID, and does not write them. -/
theorem pushMask_clearRoundsValid (m : Mask) (s : State) :
    pushMask m s.clearRoundsValid = (pushMask m s).map State.clearRoundsValid := by
  unfold pushMask
  simp only [apply_ite (Option.map _)]
  rfl

/-- The pushes of COLLIDE do not read ROUNDS or VALID, and do not write them. -/
theorem pushDerived_clearRoundsValid (m : Mask) (slots : List Nat) (s : State) :
    pushDerived m slots s.clearRoundsValid = (pushDerived m slots s).map State.clearRoundsValid := by
  induction slots generalizing s with
  | nil => rfl
  | cons slot rest ih =>
    unfold pushDerived
    cases deriveMask m slot with
    | none => rfl
    | some d =>
      simp only [pushMask_clearRoundsValid]
      cases pushMask d s with
      | none => rfl
      | some u => exact ih u

/-- SENDREQ is refused or sends whatever ROUNDS and VALID are, and what it leaves differs in ROUNDS and VALID only. -/
theorem sendRequest_clearRoundsValid (s : State) :
    (sendRequest s.clearRoundsValid = none ∧ sendRequest s = none) ∨
    ∃ u v, sendRequest s.clearRoundsValid = some u ∧ sendRequest s = some v ∧
      u.clearRoundsValid = v.clearRoundsValid := by
  cases h : s.curMask.shaped with
  | false => exact .inl ⟨sendRequest_none s.clearRoundsValid h, sendRequest_none s h⟩
  | true => exact .inr ⟨_, _, sendRequest_eq s.clearRoundsValid h, sendRequest_eq s h, rfl⟩

/-- POP does not read ROUNDS or VALID, and does not write them. -/
theorem popMask_clearRoundsValid (s : State) :
    popMask s.clearRoundsValid = (popMask s).map fun p => (p.1, p.2.clearRoundsValid) := by
  obtain hs | ⟨rest, r, hs⟩ := s.stk.eq_nil_or_concat'
  · rw [popMask_nil s hs, popMask_nil s.clearRoundsValid hs]; rfl
  · rw [popMask_append s rest r hs, popMask_append s.clearRoundsValid rest r hs]; rfl

/-- After the request is sent only ST and the report are written, so ROUNDS and VALID stay the only difference. -/
theorem mapNext_roundSent {u v : State} (h : u.clearRoundsValid = v.clearRoundsValid) :
    mapNext State.clearRoundsValid (.next { u with st := .roundSent, reply := .none }) =
      mapNext State.clearRoundsValid (.next { v with st := .roundSent, reply := .none }) :=
  congrArg (fun w : State => Host.Outcome.next ({ w with st := .roundSent, reply := .none } : State)) h

theorem mapNext_ite (g : State → State) (c : Prop) [Decidable c] (o o' : Host.Outcome State Fault Refusal) :
    mapNext g (if c then o else o') = if c then mapNext g o else mapNext g o' :=
  apply_ite (mapNext g) c o o'

/-- No operation does anything else where ROUNDS and VALID are cleared, but for ROUNDS and VALID themselves. -/
theorem exec_clearRoundsValid (i : Instr) (s : State) :
    mapNext State.clearRoundsValid (exec i s.clearRoundsValid) = mapNext State.clearRoundsValid (exec i s) := by
  cases i with
  | nop | cancel | csum | isomap | vscan | cscan | clear => rfl
  | verify | fields | tagparse =>
    simp only [exec, execVerify, execFields, execTagparse, mapNext_ite]
    rfl
  | isochk | extract | fatalchk =>
    simp only [exec, execIsochk, execExtract, execFatalchk, mapNext_ite]
    rfl
  | encode | buildreq | derive =>
    simp only [exec, execEncode, execBuildreq, execDerive, clearRoundsValid_params]
    split <;> rfl
  | start =>
    have hreset : sessionReset s.clearRoundsValid = (sessionReset s).clearRoundsValid := rfl
    simp only [exec, execStart, mapNext_ite, hreset]
    obtain ⟨hc, hs⟩ | ⟨u, v, hc, hs, huv⟩ := sendRequest_clearRoundsValid (sessionReset s)
    · rw [hc, hs]; rfl
    · simp only [hc, hs, mapNext_roundSent huv]; rfl
  | next =>
    simp only [exec, execNext, mapNext_ite, popMask_clearRoundsValid]
    cases popMask s with
    | none => rfl
    | some p =>
      have hcur : ({ p.2.clearRoundsValid with cur := maskToReg p.1 } : State) =
          State.clearRoundsValid { p.2 with cur := maskToReg p.1 } := rfl
      simp only [Option.map_some, hcur]
      obtain ⟨hc, hs⟩ | ⟨u, v, hc, hs, huv⟩ := sendRequest_clearRoundsValid { p.2 with cur := maskToReg p.1 }
      · rw [hc, hs]; rfl
      · simp only [hc, hs, mapNext_roundSent huv]; rfl
  | push m =>
    simp only [exec, execPush, pushMask_clearRoundsValid]
    cases pushMask m s <;> rfl
  | pop =>
    simp only [exec, execPop, popMask_clearRoundsValid]
    cases popMask s <;> rfl
  | sendreq =>
    simp only [exec, execSendreq]
    obtain ⟨hc, hs⟩ | ⟨u, v, hc, hs, huv⟩ := sendRequest_clearRoundsValid s
    · rw [hc, hs]
    · rw [hc, hs]
      exact congrArg (fun w : State => Host.Outcome.next (w.report .none)) huv
  | decode =>
    simp only [exec, execDecode, receiveFrame_clearRoundsValid]
    rcases receiveFrame s with ⟨_ | _, d⟩ <;> rfl
  | recv =>
    simp only [exec, execRecv, receiveFrame_clearRoundsValid, mapNext_ite]
    rcases receiveFrame s with ⟨_ | _, d⟩ <;> rfl
  | collide =>
    simp only [exec, execCollide, pushDerived_clearRoundsValid, mapNext_ite, clearRoundsValid_coll, clearRoundsValid_curMask]
    cases pushDerived s.curMask (cscan s.coll) s <;> rfl

/-- Settles O51: two states that differ in ROUNDS and VALID only are one state once these are cleared. -/
theorem roundsAndValidUnread : Obligations.RoundsAndValidUnread := by
  intro i s n v
  calc
    _ = mapNext State.clearRoundsValid (exec i { s with rounds := n, valid := v : State }) := rfl
    _ = mapNext State.clearRoundsValid (exec i s.clearRoundsValid) := (exec_clearRoundsValid i _).symm
    _ = _ := exec_clearRoundsValid i s

end Sys2Proof.Machine

/-! PROOF. The state at rest (10_state.md): what the registers hold after hardware reset (R42), and what a mask value
is (R24). -/

namespace Sys2Proof.Machine

/-- Settles O6: the reset state holds each value R42 gives. -/
theorem resetState : Obligations.ResetState := by
  unfold Obligations.ResetState
  exact ⟨rfl, rfl, rfl, rfl, rfl, rfl, rfl, rfl, rfl, rfl⟩

/-- The reset state has the invariant of every step; of CUR, which R42 leaves unspecified, nothing is asked in Idle. -/
theorem reset_ok : State.reset.Ok where
  params := rfl
  errFatal := by decide
  isoCode := by decide
  tagCount := rfl
  tagChannel := List.suffix_refl _
  stack := nofun
  depth := by decide
  current h := absurd rfl h

/-- Settles O52: at reset the stack is empty, nobody acts and no frame is held. -/
theorem resetMeetsInvariants : Obligations.ResetMeetsInvariants :=
  ⟨reset_ok, { ok := reset_ok, outside := nofun, sorted := .nil, tree := rfl, held := nofun }⟩

/-- Byte j of the fixed form is byte j of the sequence, and 0x00 past its end. -/
theorem padBytes_getD (b : List Byte) {j : Nat} (hj : j < 8) : (padBytes b).toList.getD j 0 = b.getD j 0 := by
  rw [padBytes_toList, List.getD_eq_getElem?_getD, List.getD_eq_getElem?_getD]
  by_cases h : j < b.length
  · rw [List.getElem?_append_left (by simp; omega), List.getElem?_take_of_lt hj]
  · rw [List.getElem?_append_right (by simp; omega), List.getElem?_eq_none (by omega : b.length ≤ j),
      List.getElem?_replicate]
    split <;> rfl

/-- Settles O32: the test of R24 in arithmetic, and the register form byte by byte. -/
theorem wellFormedMaskMeans : Obligations.WellFormedMaskMeans := by
  intro m
  have means : m.wellFormed = true ↔ m.len % 4 = 0 ∧ m.len ≤ 64 ∧ m.bytes.length = (m.len + 7) / 8 ∧
      (m.len % 8 = 4 → (m.bytes.getLastD 0).toNat < 16) := by
    rw [wellFormed_iff, shaped_iff, canonical_iff, and_assoc, and_assoc, ceil8]
  refine ⟨means, fun hw => ⟨?_, fun j hj => padBytes_getD m.bytes hj⟩⟩
  have hl : m.len ≤ 64 := (means.1 hw).2.1
  exact BitVec.toNat_ofNat .. |>.trans (Nat.mod_eq_of_lt (by omega))

end Sys2Proof.Machine

/-! PROOF. Encoding and dispatch (30_encoding.md R95 to R100, R109): the decoder is followed by the rows of the operation
table, and a step by the first of the inputs. -/

namespace Sys2Proof

/-! ### The operation table and the decoder -/

/-- A row selected by a word is a row of the table and has that word: the mask 0xFF drops no bit (R95). -/
theorem rowOf_eq_some {w : BitVec 8} {row : Row} (h : rowOf w = some row) : row ∈ opcodeTable ∧ row.opw = w := by
  have hw : w &&& 0xFF = row.opw := by simpa using List.find?_some h
  have hmask : w &&& 0xFF = w := BitVec.and_allOnes
  exact ⟨List.mem_of_find?_eq_some h, hw.symm.trans hmask⟩

/-- Whatever operation a row builds from an operand, the row's word with that operand is the operation's request: of the
operands, only one of the row's kind builds anything. -/
theorem encode_of_build {row : Row} (hrow : row ∈ opcodeTable) {x : Operand} {i : Instr} (hb : row.build x = some i) :
    encode i = ⟨row.opw, x⟩ := by
  fin_cases hrow
  all_goals cases x <;> cases hb; rfl

/-- Every row builds an operation from its operand of zeros. -/
theorem build_zero_isSome : ∀ row ∈ opcodeTable, (row.build row.zero).isSome = true := by decide

/-- A request decodes to what the row of its word builds from its operand. -/
theorem decode_of_build {r : Request} {row : Row} {i : Instr} (hrow : rowOf r.opw = some row)
    (hb : row.build r.operand = some i) : decode r = .ok i := by
  simp only [decode, hrow, hb]

/-- A request decodes to nothing else. -/
theorem build_of_decode {r : Request} {i : Instr} (h : decode r = .ok i) :
    ∃ row, rowOf r.opw = some row ∧ row.build r.operand = some i := by
  unfold decode at h
  split at h
  · cases h
  · split at h
    · cases h
    · cases h; exact ⟨_, ‹_›, ‹_›⟩

/-- A word without a row names no operation, whatever the operand. -/
theorem decode_of_rowOf_eq_none {r : Request} (h : rowOf r.opw = none) : decode r = .error (.noOperation r.opw) := by
  simp only [decode, h]

/-- The law of the encoding, stated operation by operation, holds of all 24. -/
theorem encoding_statement : ∀ i : Instr, Laws.Encoding.Statement i
  | .nop => Laws.Encoding.nop
  | .start => Laws.Encoding.start
  | .cancel => Laws.Encoding.cancel
  | .recv => Laws.Encoding.recv
  | .isochk => Laws.Encoding.isochk
  | .extract => Laws.Encoding.extract
  | .collide => Laws.Encoding.collide
  | .fatalchk => Laws.Encoding.fatalchk
  | .next => Laws.Encoding.next
  | .sendreq => Laws.Encoding.sendreq
  | .csum s => Laws.Encoding.csum s
  | .verify f => Laws.Encoding.verify f
  | .fields f => Laws.Encoding.fields f
  | .encode cmd payload => Laws.Encoding.encode cmd payload
  | .decode => Laws.Encoding.decode
  | .clear => Laws.Encoding.clear
  | .push m => Laws.Encoding.push m
  | .pop => Laws.Encoding.pop
  | .buildreq m => Laws.Encoding.buildreq m
  | .derive m slot => Laws.Encoding.derive m slot
  | .tagparse blk => Laws.Encoding.tagparse blk
  | .isomap code => Laws.Encoding.isomap code
  | .vscan v => Laws.Encoding.vscan v
  | .cscan c => Laws.Encoding.cscan c

/-- The request of an operation decodes to it, whatever its operands. -/
theorem decode_encode (i : Instr) : decode (encode i) = .ok i := by
  obtain ⟨-, hsome, hbuild⟩ := encoding_statement i
  obtain ⟨row, hrow⟩ := Option.isSome_iff_exists.1 hsome
  exact decode_of_build hrow (hbuild row hrow)

/-- A request that decodes to an operation is that operation's request. -/
theorem encode_of_decode {r : Request} {i : Instr} (h : decode r = .ok i) : encode i = r := by
  obtain ⟨row, hrow, hb⟩ := build_of_decode h
  obtain ⟨hmem, hw⟩ := rowOf_eq_some hrow
  rw [encode_of_build hmem hb, hw]

/-- A word that is no operation's has no row: a row's word is the word of what it builds from zeros. -/
theorem rowOf_eq_none_of_forall_encode {w : BitVec 8} (h : ∀ i, (encode i).opw ≠ w) : rowOf w = none := by
  cases hrow : rowOf w with
  | none => rfl
  | some row =>
    obtain ⟨hmem, hw⟩ := rowOf_eq_some hrow
    obtain ⟨i, hb⟩ := Option.isSome_iff_exists.1 (build_zero_isSome row hmem)
    exact absurd (by rw [encode_of_build hmem hb, hw]) (h i)

/-- Settles O1: every operation's word selects the row that builds it, and a row builds only operations of its own word. -/
theorem decodeEncodeAgree : Obligations.DecodeEncodeAgree :=
  ⟨decode_encode, fun _ _ => encode_of_decode⟩

/-- Settles O2: each word selects its row of R100. -/
theorem specWordsDecode : Obligations.SpecWordsDecode :=
  ⟨rfl, rfl, rfl, rfl, rfl, rfl⟩

end Sys2Proof

namespace Sys2Proof.Machine

/-! ### From the first input to the operation of a step -/

theorem consume_of_inputs_eq_nil {s : State} (h : s.inputs = []) : s.consume = s := by
  cases s; cases h; rfl

theorem consume_of_inputs_eq_cons {s : State} {x : Input} {rest : List Input} (h : s.inputs = x :: rest) :
    s.consume = { s with inputs := rest } := by
  rw [State.consume, h, List.tail_cons]

theorem turn_host {s : State} {c : BitVec 2} {rest : List Input} (h : s.inputs = .host c :: rest) :
    s.turn = .perform true (hostRequest c) := by
  rw [State.turn, h]

theorem turn_bench {s : State} {r : Request} {rest : List Input} (h : s.inputs = .bench r :: rest) :
    s.turn = .perform false r := by
  rw [State.turn, h]

/-- Where the sequencer acts, by an input that says so or because none is left, it performs the word ST selects (R97). -/
theorem turn_of_stOpw {s : State} {w : BitVec 8} (h : s.inputs = [] ∨ ∃ rest, s.inputs = .sequencer :: rest)
    (hw : s.st.opw = some w) : s.turn = .perform false ⟨w, .none⟩ := by
  have hturn : s.turn = s.sequencerTurn := by
    obtain h | ⟨rest, h⟩ := h <;> rw [State.turn, h]
  rw [hturn, State.sequencerTurn, State.microRequest, hw, Option.map_some]

/-- A request that decodes is performed in the state with the input consumed. -/
theorem step_of_decode_eq_ok {s : State} {byHost : Bool} {r : Request} {i : Instr} (ht : s.turn = .perform byHost r)
    (hd : decode r = .ok i) : step s = exec i s.consume := by
  simp only [step, ht, hd]

/-- A request that does not decode is answered as R109 says. -/
theorem step_of_decode_eq_error {s : State} {byHost : Bool} {r : Request} {e : DecodeError}
    (ht : s.turn = .perform byHost r) (hd : decode r = .error e) : step s = undecodable byHost e s.consume := by
  simp only [step, ht, hd]

/-- HCMD = 3, zero-extended, is no word of R100. -/
theorem decode_hostRequest_three : decode (hostRequest 3) = .error (.noOperation 3) := rfl

/-- HCMD = 3 is refused, its input consumed (R109). -/
theorem step_host_three {s : State} {rest : List Input} (h : s.inputs = .host 3 :: rest) :
    step s = .next { s with inputs := rest, reply := .refused } := by
  rw [step_of_decode_eq_error (turn_host h) decode_hostRequest_three, consume_of_inputs_eq_cons h]
  rfl

/-- Settles O3: HCMD = 3 is a code without a row, as is every word that no operation encodes to; the codes are R97's and
R98's tables. -/
theorem unassignedCodes : Obligations.UnassignedCodes := by
  refine ⟨fun _ _ => step_host_three, fun _ h => decode_of_rowOf_eq_none (rowOf_eq_none_of_forall_encode h), rfl, rfl,
    fun st => ?_, fun e => ?_⟩
  · cases st <;> decide
  · cases e <;> decide

/-- Settles O4: whoever acts, the turn is to perform its request, and a request that decodes is performed. -/
theorem stepRunsDecodedOperation : Obligations.StepRunsDecodedOperation := by
  intro s rest i
  refine ⟨fun c hi hd => ?_, fun r hi hd => ?_, fun w hi hw hd => ?_, fun w hi hw hd => ?_⟩
  · rw [step_of_decode_eq_ok (turn_host hi) hd, consume_of_inputs_eq_cons hi]
  · rw [step_of_decode_eq_ok (turn_bench hi) hd, consume_of_inputs_eq_cons hi]
  · rw [step_of_decode_eq_ok (turn_of_stOpw (.inr ⟨rest, hi⟩) hw) hd, consume_of_inputs_eq_cons hi]
  · rw [step_of_decode_eq_ok (turn_of_stOpw (.inl hi) hw) hd, consume_of_inputs_eq_nil hi]

/-! ### A micro-operation in another ST -/

/-- Settles O23: each micro-operation tests first that ST is the one that selects it. -/
theorem microOperationRefusedElsewhere : Obligations.MicroOperationRefusedElsewhere :=
  fun _ => ⟨fun h => if_neg h, fun h => if_neg h, fun h => if_neg h, fun h => if_neg h, fun h => if_neg h,
    fun h => if_neg h⟩

end Sys2Proof.Machine

/-! PROOF. The FrameCodec (40_framecodec.md R120 to R126): the checksum pair in XOR form, the unit operations one by one,
and DECODE on the stream of the Transport. -/

namespace Sys2Proof.Machine

/-! ### The checksum pair -/

/-- The XOR of the bytes up to and with byte i. -/
theorem xor8_take_succ (f : List Byte) (i : Nat) : xor8 (f.take (i + 1)) = xor8 (f.take i) ^^^ f.getD i 0 := by
  rw [List.take_add_one, xor8_append, List.getD_eq_getElem?_getD]
  cases f[i]? <;> simp

/-- The checksum byte is right exactly when it and the bytes before it have XOR 0. -/
theorem pairRight_iff {f : List Byte} (h : 2 ≤ f.length) :
    PairRight f ↔
      xor8 (f.take (f.length - 1)) = 0 ∧ f.getD (f.length - 1) 0 = f.getD (f.length - 2) 0 ^^^ 0xFF := by
  have hk : f.length - 1 = f.length - 2 + 1 := by omega
  rw [PairRight, hk, xor8_take_succ]
  exact and_congr_left' (eq_comm.trans BitVec.xor_eq_zero_iff.symm)

/-- The fold of XOR over a sequence (00_scope.md R12) is its checksum. -/
theorem foldl_xor_zero (f : List Byte) : f.foldl (fun a b => a ^^^ b) 0 = xor8 f :=
  (foldl_xor f 0).trans BitVec.zero_xor

/-- R126's consequence: the XOR of all bytes but the last is 0, and of all bytes the complement byte. -/
theorem foldl_xor_of_pairRight {f : List Byte} (h : 2 ≤ f.length) (hp : PairRight f) :
    f.dropLast.foldl (fun a b => a ^^^ b) 0 = 0 ∧ f.foldl (fun a b => a ^^^ b) 0 = f.getLastD 0 := by
  obtain ⟨hzero, -⟩ := (pairRight_iff h).1 hp
  have hall : xor8 f = f.getD (f.length - 1) 0 := by
    have hsucc := xor8_take_succ f (f.length - 1)
    rw [hzero, Nat.sub_add_cancel (by omega), List.take_length] at hsucc
    exact hsucc.trans BitVec.zero_xor
  rw [foldl_xor_zero, foldl_xor_zero, List.dropLast_eq_take, hall, List.getLastD_eq_getLast?,
    List.getLast?_eq_getElem?, List.getD_eq_getElem?_getD]
  exact ⟨hzero, rfl⟩

/-! ### VERIFY and the change of bits (R121) -/

/-- A sequence with the bits of d changed in byte i. -/
def flipByte (f : List Byte) (i : Nat) (d : Byte) : List Byte := f.set i (f.getD i 0 ^^^ d)

@[simp] theorem flipByte_length (f : List Byte) (i : Nat) (d : Byte) : (flipByte f i d).length = f.length :=
  List.length_set

theorem flipByte_getD_same {f : List Byte} {i : Nat} (d : Byte) (h : i < f.length) :
    (flipByte f i d).getD i 0 = f.getD i 0 ^^^ d := by
  rw [flipByte, List.getD_eq_getElem?_getD, List.getElem?_set_self h, Option.getD_some]

theorem flipByte_getD_ne (f : List Byte) {i j : Nat} (d : Byte) (h : i ≠ j) :
    (flipByte f i d).getD j 0 = f.getD j 0 := by
  rw [flipByte, List.getD_eq_getElem?_getD, List.getElem?_set_ne h, List.getD_eq_getElem?_getD]

/-- The XOR of bytes among which the changed one is changes by the same bits. -/
theorem xor8_take_flipByte {f : List Byte} {i m : Nat} (d : Byte) (hi : i < m) (hm : m ≤ f.length) :
    xor8 ((flipByte f i d).take m) = xor8 (f.take m) ^^^ d := by
  have hget : f.getD i 0 = (f.take m).getD i 0 := by
    rw [List.getD_eq_getElem?_getD, List.getD_eq_getElem?_getD, List.getElem?_take_of_lt hi]
  rw [flipByte, List.take_set, hget]
  exact xor8_set _ _ _ (by rw [List.length_take]; omega)

/-- A change in one byte breaks the pair: in the complement byte the second test, anywhere before it the first. -/
theorem not_pairRight_flipByte {f : List Byte} {i : Nat} {d : Byte} (h2 : 2 ≤ f.length) (hi : i < f.length)
    (hd : d ≠ 0) (hp : PairRight f) : ¬ PairRight (flipByte f i d) := by
  obtain ⟨hzero, hcompl⟩ := (pairRight_iff h2).1 hp
  rw [pairRight_iff (by rwa [flipByte_length]), flipByte_length]
  rintro ⟨hzero', hcompl'⟩
  by_cases hlast : i < f.length - 1
  · rw [xor8_take_flipByte d hlast (by omega), hzero] at hzero'
    exact hd (BitVec.zero_xor.symm.trans hzero')
  · obtain rfl : i = f.length - 1 := by omega
    rw [flipByte_getD_same d hi, flipByte_getD_ne f d (by omega), ← hcompl] at hcompl'
    exact hd ((BitVec.xor_right_inj _).1 (hcompl'.trans BitVec.xor_zero.symm))

/-- The same change in two covered bytes cancels in the checksum. -/
theorem pairRight_flipByte_twice {f : List Byte} {i j : Nat} (d : Byte) (hi : i < f.length - 2) (hj : j < f.length - 2)
    (hp : PairRight f) : PairRight (flipByte (flipByte f i d) j d) := by
  obtain ⟨hcsum, hcompl⟩ := hp
  have hpair : ∀ k, f.length - 2 ≤ k → (flipByte (flipByte f i d) j d).getD k 0 = f.getD k 0 := by
    intro k hk
    rw [flipByte_getD_ne _ d (by omega), flipByte_getD_ne _ d (by omega)]
  rw [PairRight, flipByte_length, flipByte_length, hpair _ le_rfl, hpair _ (by omega),
    xor8_take_flipByte d hj (by rw [flipByte_length]; omega), xor8_take_flipByte d hi (by omega), BitVec.xor_assoc,
    BitVec.xor_self, BitVec.xor_zero]
  exact ⟨hcsum, hcompl⟩

theorem exec_verify {f : List Byte} (h : 2 ≤ f.length) (s : State) :
    exec (.verify f) s = .next { s with reply := .verified (verifyFrame f) } :=
  if_pos (decide_eq_true h)

/-- Settles O26: VERIFY's two tests are the two equations of a right pair. -/
theorem verifyTestsBothBytes : Obligations.VerifyTestsBothBytes := by
  intro f s h
  exact ⟨decode_encode (.verify f), verifyFrame f, verifyFrame_iff f, exec_verify h s⟩

/-- Settles O27: one change breaks the pair, and a second of the same bit cancels it. -/
theorem verifyDetectsSingleBit : Obligations.VerifyDetectsSingleBit := by
  intro f s i bit h2 hi hbit hp
  have hd : BitVec.twoPow 8 bit ≠ 0 := fun h0 => by
    simpa [hbit] using congrArg (·.getLsbD bit) h0
  refine ⟨?_, fun j hji hi' hj => ?_⟩
  · have hreject : verifyFrame (flipByte f i (BitVec.twoPow 8 bit)) = false :=
      Bool.eq_false_iff.2 fun hv => not_pairRight_flipByte h2 hi hd hp ((verifyFrame_iff _).1 hv)
    rw [← flipByte, exec_verify (by rwa [flipByte_length]), hreject]
  · have haccept := (verifyFrame_iff _).2 (pairRight_flipByte_twice (BitVec.twoPow 8 bit) hi' hj hp)
    rw [← flipByte, ← flipByte_getD_ne f (BitVec.twoPow 8 bit) hji.symm, ← flipByte,
      exec_verify (by rwa [flipByte_length, flipByte_length]), haccept]

/-! ### CSUM, FIELDS and ENCODE (R120, R122, R123) -/

/-- Settles O25: the fold of XOR is `xor8`, and XOR with 0xFF is the complement. -/
theorem csumIsXorAndComplement : Obligations.CsumIsXorAndComplement := by
  intro bs s
  refine ⟨decode_encode (.csum bs), ?_⟩
  rw [foldl_xor_zero, ← xor_ff]
  rfl

/-- FIELDS takes a sequence apart as header, payload and pair. -/
theorem fieldsOf_append (a0 a1 a2 a3 a4 a5 c n : Byte) (payload : List Byte) :
    fieldsOf ([a0, a1, a2, a3, a4, a5] ++ payload ++ [c, n]) =
      { regs :=
          { sof := a0, len := a1, addrLo := a2, addrHi := a3, flags := a4, cmd := a5
            plen := BitVec.ofNat 8 payload.length, csum := c, csumn := n }
        payload := payload } := by
  simp [fieldsOf, Config.overhead, Config.hdrLen, List.getD_eq_getElem?_getD]

/-- The fields of the frame of R80. -/
theorem fieldsOf_frameOf (p : Config.Params) (cmd : Byte) (payload : List Byte) :
    ∃ c n, fieldsOf (frameOf p cmd payload) =
      { regs :=
          { sof := 0x01, len := BitVec.ofNat 8 (payload.length + 8), addrLo := 0, addrHi := 0, flags := p.txFlags
            cmd := cmd, plen := BitVec.ofNat 8 payload.length, csum := c, csumn := n }
        payload := payload } :=
  ⟨_, _, fieldsOf_append ..⟩

theorem fieldsDomain_iff (f : List Byte) : fieldsDomain f = true ↔ 8 ≤ f.length ∧ f.length ≤ 255 := by
  rw [fieldsDomain, Bool.and_eq_true, decide_eq_true_iff, decide_eq_true_iff, Config.minFrame]

theorem exec_fields {f : List Byte} (h8 : 8 ≤ f.length) (h255 : f.length ≤ 255) (s : State) :
    exec (.fields f) s = .next { s with reply := .fields (fieldsOf f) } :=
  if_pos ((fieldsDomain_iff f).2 ⟨h8, h255⟩)

/-- Settles O28: a sequence in FIELDS' domain, taken apart. -/
theorem fieldsExtracts : Obligations.FieldsExtracts := by
  intro a0 a1 a2 a3 a4 a5 c n payload s hlen regs f
  have hk : f.length = payload.length + 8 := by simp [f]
  refine ⟨decode_encode (.fields f), ?_⟩
  rw [exec_fields (by omega) (by omega), fieldsOf_append]

theorem exec_encode (cmd : Byte) {payload : List Byte} (h : payload.length ≤ 247) (s : State) :
    exec (.encode cmd payload) s = .next { s with reply := .frame (frameOf s.params cmd payload) } := by
  simp only [exec, execEncode, encodeFrame_eq s.params cmd payload h, State.report]

theorem exec_encode_refused (cmd : Byte) {payload : List Byte} (h : 247 < payload.length) (s : State) :
    exec (.encode cmd payload) s = .next { s with reply := .refused } := by
  simp only [exec, execEncode, encodeFrame_none s.params.txFlags cmd payload h, State.refuse, State.report]

/-- ENCODE reports no frame but that of its command and payload, and none above 247 payload bytes. -/
theorem frame_of_exec_encode {cmd : Byte} {payload f : List Byte} {s : State}
    (h : exec (.encode cmd payload) s = .next { s with reply := .frame f }) :
    payload.length ≤ 247 ∧ f = frameOf s.params cmd payload := by
  by_cases hlen : payload.length ≤ 247
  · rw [exec_encode cmd hlen] at h
    injection h with h
    injection congrArg State.reply h with h
    exact ⟨hlen, h.symm⟩
  · rw [exec_encode_refused cmd (by omega)] at h
    injection h with h
    injection congrArg State.reply h

/-- Settles O29: the frame of R80 up to 247 payload bytes, the refusal above. -/
theorem encodeBuildsFrame : Obligations.EncodeBuildsFrame := by
  intro cmd payload s
  exact ⟨decode_encode (.encode cmd payload), fun h => exec_encode cmd h s, fun h => exec_encode_refused cmd h s⟩

/-- Settles O44: the domain test of each operation fails. -/
theorem outsideDomainRefused : Obligations.OutsideDomainRefused := by
  intro bs s
  refine ⟨fun h => ?_, fun h => ?_, fun h => ?_⟩
  · exact if_neg (decide_eq_true_iff.not.2 (by omega))
  · exact if_neg ((fieldsDomain_iff bs).not.2 (by omega))
  · exact if_neg (decide_eq_true_iff.not.2 h)

/-! ### DECODE (R124 to R126) -/

theorem exec_decode_of_ok {s d : State} {r : FieldRecord} (h : receiveFrame s = (.ok r, d)) :
    exec .decode s = .next { d with reply := .fields r } := by
  simp only [exec, execDecode, h, State.report]

theorem exec_decode_of_error {s d : State} {e : Err} (h : receiveFrame s = (.error e, d)) :
    exec .decode s = .next { d with reply := .raised e } := by
  simp only [exec, execDecode, h, State.report]

theorem exec_recv_of_ok {s d : State} {r : FieldRecord} (hst : s.st = .roundSent) (h : receiveFrame s = (.ok r, d)) :
    exec .recv s = .next { d with st := .roundReceived, reply := .none } := by
  simp only [exec, execRecv, hst, if_true, h]

/-- Settles O13: the reception of the whole frame passes VERIFY, and DECODE and RECV follow it. -/
theorem decodeAcceptsFrame : Obligations.DecodeAcceptsFrame := by
  intro s f rest hf hp hrx h1 h2
  have hr := receiveFrame_whole s f rest hf hrx h1 h2
  simp only [(verifyFrame_iff f).2 hp, if_true] at hr
  exact ⟨overlay f (freeBuf s.draws), s.draws + 1, overlay_take f _ hf.2.1, exec_decode_of_ok hr,
    fun hst => exec_recv_of_ok hst hr⟩

/-- DECODE always completes. -/
theorem exec_decode_next (s : State) : ∃ t, exec .decode s = .next t := by
  rcases hr : receiveFrame s with ⟨e | r, d⟩
  · exact ⟨_, exec_decode_of_error hr⟩
  · exact ⟨_, exec_decode_of_ok hr⟩

/-- Settles O14: an accepted frame and a failed reception write the receive registers, the streams and the report only. -/
theorem decodeAloneOnlyReports : Obligations.DecodeAloneOnlyReports := by
  refine ⟨decode_encode .decode, fun s => ?_⟩
  obtain ⟨t, h⟩ := exec_decode_next s
  rw [h]
  rcases decode_cases h with ⟨f, rest, limits, hrx, -, -, rfl⟩ | ⟨e, rx, limits, reads, hrx, hreads, -, rfl⟩
  · exact ⟨overlay f (freeBuf s.draws), _, _, s.draws + 1, rest, limits,
      [.read 2 (f.take 2), .read (f.length - 2) (f.drop 2)], _, rfl, ⟨f, hrx.symm⟩,
      by simp [LinkEvent.isWrite], .inl ⟨_, rfl⟩⟩
  · exact ⟨freeBuf s.draws, _, freeFields s.draws, s.draws + 1, rx, limits, reads, _, rfl, hrx, hreads, .inr ⟨e, rfl⟩⟩

/-- A length of a frame fits in a byte (30_encoding.md R81). -/
theorem toNat_ofNat_of_le {k : Nat} (h : k ≤ 255) : (BitVec.ofNat 8 k).toNat = k :=
  (BitVec.toNat_ofNat k 8).trans (Nat.mod_eq_of_lt (by omega))

/-- PAYLOAD of a state that holds a frame and its fields is the frame's payload (10_state.md R26). -/
theorem payload_of_held {t : State} {f : List Byte} (hf : IsFrame f) (hb : t.rxb.toList.take f.length = f)
    (hregs : t.f = (fieldsOf f).regs) : t.payload = (fieldsOf f).payload := by
  obtain ⟨h8, h255, -⟩ := hf
  have hplen : t.f.plen.toNat = f.length - 8 := by
    rw [hregs]
    exact toNat_ofNat_of_le (by omega : f.length - 8 ≤ 255)
  have hdrop : f.drop 6 = (t.rxb.toList.drop 6).take (f.length - 6) := by rw [← List.drop_take, hb]
  calc t.payload = (t.rxb.toList.drop 6).take (f.length - 8) := by rw [State.payload, hplen, Config.hdrLen]
    _ = (f.drop 6).take (f.length - 8) := by rw [hdrop, List.take_take, Nat.min_eq_left (by omega)]

/-- Settles O30: ENCODE's frame is one that DECODE accepts, and its fields are those it was built from. -/
theorem codecRoundTrip : Obligations.CodecRoundTrip := by
  intro s cmd payload f rest hlen henc hrx h1 h2
  obtain ⟨-, rfl⟩ := frame_of_exec_encode henc
  have hf := frameOf_isFrame s.params cmd payload hlen
  have hcut : NotCut ((frameOf s.params cmd payload).length - 2) s.rxLimits.tail := by
    rw [frameOf_length]; exact h2
  obtain ⟨b, n, hb, hdec, -⟩ :=
    decodeAcceptsFrame s _ rest hf (frameOf_pairRight s.params cmd payload) hrx h1 hcut
  obtain ⟨c, m, hfields⟩ := fieldsOf_frameOf s.params cmd payload
  refine ⟨_, _, hdec, rfl, rfl, ?_⟩
  rw [payload_of_held hf hb rfl, hfields]
  exact ⟨rfl, toNat_ofNat_of_le (by omega), rfl, rfl, rfl, rfl, rfl, rfl, toNat_ofNat_of_le (by omega), rfl⟩

/-- The held frame of a state that a frame was latched in is that frame. -/
theorem heldFrame_of_held {t : State} {f : List Byte} (h : f.length ≤ 255) (hb : t.rxb.toList.take f.length = f)
    (hlen : t.rxlen = BitVec.ofNat 8 f.length) : t.heldFrame = f := by
  rw [State.heldFrame, hlen, toNat_ofNat_of_le (by omega), hb]

/-- Settles O31: a frame ENCODE makes is built with its length and pair; one DECODE accepts was tested for both. -/
theorem frameSelfConsistency : Obligations.FrameSelfConsistency := by
  unfold Obligations.FrameSelfConsistency
  intro consistent
  have hconsistent : ∀ f, IsFrame f → PairRight f → consistent f := by
    intro f hf hp
    obtain ⟨hxor, hall⟩ := foldl_xor_of_pairRight (by have := hf.1; omega) hp
    exact ⟨hp, hf.lenByte, hxor, hall⟩
  refine ⟨fun cmd payload f s h => ?_, fun s t r h hreply => ?_⟩
  · obtain ⟨hlen, rfl⟩ := frame_of_exec_encode h
    exact hconsistent _ (frameOf_isFrame _ _ _ hlen) (frameOf_pairRight _ _ _)
  · rcases decode_cases h with ⟨f, _, _, -, hf, hp, rfl⟩ | ⟨_, _, _, _, -, -, -, rfl⟩
    · rw [heldFrame_of_held hf.2.1 (overlay_take f _ hf.2.1) rfl]
      exact hconsistent f hf hp
    · cases hreply

end Sys2Proof.Machine

/-! PROOF. The MaskStack (41_maskstack.md): CLEAR, PUSH and POP (R140 to R142), the occupancy of the stack in a session
(R144), and the invariant that every step of a session keeps (R143, R145). -/

namespace Sys2Proof.Machine

/-! ### CLEAR, PUSH and POP -/

/-- Settles O33: CLEAR's meaning is the empty stack and the report without a result. -/
theorem clearEmptiesStack : Obligations.ClearEmptiesStack :=
  ⟨decode_encode .clear, fun _ => rfl⟩

/-- PUSH with room on the stack appends the register form. -/
theorem exec_push {m : Mask} {s : State} (hs : s.stk.length < 256) (hm : m.wellFormed = true) :
    exec (.push m) s = .next { s with stk := s.stk ++ [maskToReg m], reply := .none } := by
  simp only [exec, execPush, pushMask_some m s hs hm, State.report]

theorem exec_push_refused {m : Mask} {s : State} (h : 256 ≤ s.stk.length ∨ m.wellFormed = false) :
    exec (.push m) s = .next s.refuse := by
  simp only [exec, execPush, pushMask_none m s h]

/-- POP of a stack that ends in an entry takes it off. -/
theorem exec_pop {s : State} {rest : List MaskReg} {r : MaskReg} (h : s.stk = rest ++ [r]) :
    exec .pop s = .next { s with stk := rest, reply := .mask (maskOfReg r) } := by
  simp only [exec, execPop, popMask_append s rest r h, State.report]

theorem exec_pop_refused {s : State} (h : s.stk = []) : exec .pop s = .next s.refuse := by
  simp only [exec, execPop, popMask_nil s h]

/-- A register with a mask's length and its bytes padded with 0x00 to 8 is the mask's register form (R24). -/
theorem maskToReg_eq {m : Mask} {r : MaskReg} (hm : m.wellFormed = true) (hlen : r.len.toNat = m.len)
    (hbytes : r.bytes.toList = m.bytes ++ List.replicate (8 - m.bytes.length) 0) : maskToReg m = r := by
  obtain ⟨-, hl, hb⟩ := (shaped_iff m).1 ((wellFormed_iff m).1 hm).1
  have h8 : m.bytes.length ≤ 8 := hb ▸ ceil8_le _ hl
  have epad : padBytes m.bytes = r.bytes := by
    rw [← Vector.toList_inj, padBytes_toList, List.take_of_length_le h8, hbytes]
  rw [maskToReg, epad, ← hlen, BitVec.ofNat_toNat, BitVec.setWidth_eq]

/-- Settles O34: the appended entry is the register form, which its length and bytes determine. -/
theorem pushAppendsEntry : Obligations.PushAppendsEntry := by
  refine fun m s => ⟨decode_encode (.push m), fun hs hm r hlen hbytes => ?_, exec_push_refused⟩
  rw [exec_push hs hm, maskToReg_eq hm hlen hbytes]

/-- Settles O35: the entry popped is reported as the mask its register holds. -/
theorem popReturnsLastPushed : Obligations.PopReturnsLastPushed :=
  ⟨decode_encode .pop, fun _ => ⟨fun _ _ => exec_pop, exec_pop_refused⟩⟩

/-- Settles O36: the entry pushed is the one popped, and a well-formed mask comes back from its register form. -/
theorem pushThenPopReturnsMask : Obligations.PushThenPopReturnsMask := by
  intro m s hs hm
  refine ⟨_, exec_push hs hm, ?_⟩
  rw [exec_pop rfl, (maskToReg_ok m hm).2]

/-! ### COLLIDE's pushes (42_inventory_engine.md R158) -/

/-- The entries COLLIDE pushes: the masks of the colliding slots, each derived from CUR, in CSCAN order. -/
def State.newMasks (s : State) : List MaskReg := (cscan s.coll).map fun slot => maskToReg (childMask s.curMask slot)

/-- With a well-formed CUR of at most 60 bits and room for a mask of each colliding slot, COLLIDE pushes them all. -/
theorem exec_collide {s : State} (hst : s.st = .processCollisions) (hcur : s.cur.ok = true) (hlen : s.cur.len.toNat ≤ 60)
    (hroom : s.stk.length + setBits s.coll ≤ 256) :
    exec .collide s = .next { s with stk := s.stk ++ s.newMasks, st := .pushMasks, reply := .none } := by
  have hpush := pushDerived_eq s.curMask ((ok_iff s.cur).1 hcur).1 hlen (cscan s.coll) s (fun _ => cscan_lt s.coll)
    (by rwa [cscan_length])
  simp only [exec, execCollide, if_pos hst, hpush, State.newMasks]

/-- A mask in a register is of 4k bits, k its level. -/
theorem len_eq_level {r : MaskReg} (h : r.ok = true) : r.len.toNat = 4 * r.level := by
  have hshaped := ((wellFormed_iff _).1 ((ok_iff r).1 h).1).1
  have h4 : r.len.toNat % 4 = 0 := ((shaped_iff _).1 hshaped).1
  rw [MaskReg.level]
  omega

theorem newMasks_length_le (s : State) : s.newMasks.length ≤ 16 := by
  rw [State.newMasks, List.length_map, cscan_length]
  exact setBits_le s.coll

theorem newMasks_eq_nil {s : State} (h : s.coll = 0) : s.newMasks = [] := by
  rw [State.newMasks, (cscan_eq_nil_iff s.coll).2 h, List.map_nil]

/-- The new masks are one level deeper than CUR. -/
theorem newMasks_level {s : State} (hcur : s.cur.ok = true) (hlevel : s.cur.level ≤ 15) {r : MaskReg}
    (hr : r ∈ s.newMasks) : r.level = s.cur.level + 1 := by
  obtain ⟨slot, -, rfl⟩ := List.mem_map.1 hr
  have hlen : (childMask s.curMask slot).len = 4 * (s.cur.level + 1) := by
    rw [childMask_len, State.curMask, maskOfReg_len, len_eq_level hcur, Nat.mul_add]
  rw [maskToReg_level _ (by omega), hlen, Nat.mul_div_cancel_left _ (by decide)]

/-! ### How many masks are pending (R144) -/

/-- Where no mask is of a level, none of that level is counted. -/
theorem countP_level_eq_zero {l : List MaskReg} {k : Nat} (h : ∀ r ∈ l, r.level ≠ k) :
    l.countP (fun r => r.level == k) = 0 :=
  List.countP_eq_zero.2 fun r hr => by simpa using h r hr

/-- Before the pushes of a round: 15 masks of each of 15 levels. -/
theorem State.TreeBefore.length_le {s : State} (h : s.TreeBefore) : s.stk.length ≤ 225 := by
  obtain ⟨hlevel, hstk, hcount⟩ := h
  have hlen := length_le_levels s.cur.level 15 s.stk hstk fun k _ => hcount k
  omega

/-- After the pushes of a round: 15 masks of each level up to CUR's, and 16 one level deeper. -/
theorem State.TreeAfter.length_le_level {s : State} (h : s.TreeAfter) : s.stk.length ≤ s.cur.level * 15 + 16 := by
  obtain ⟨-, hstk, hcount, hdeepest, -⟩ := h
  have hsplit := length_eq_level_add s.stk (s.cur.level + 1)
  have hupper : (s.stk.filter fun r => r.level != s.cur.level + 1).length ≤ s.cur.level * 15 := by
    refine length_le_levels s.cur.level 15 _ (fun r hr => ?_) fun k hk =>
      List.filter_sublist.countP_le.trans (hcount k hk)
    obtain ⟨hmem, hne⟩ := List.mem_filter.1 hr
    have hrange := hstk r hmem
    have hne : r.level ≠ s.cur.level + 1 := by simpa using hne
    omega
  rw [State.pendingAt] at hdeepest
  omega

theorem State.TreeAfter.length_le {s : State} (h : s.TreeAfter) : s.stk.length ≤ 241 := by
  have hlen := h.length_le_level
  obtain ⟨hlevel, -⟩ := h
  omega

/-- With no mask of level 16 pending, either CUR's level is at most 14 or none of the 16 deeper masks is there. -/
theorem State.TreeAfter.length_le_of_level_le {s : State} (h : s.TreeAfter) (h15 : ∀ r ∈ s.stk, r.level ≤ 15) :
    s.stk.length ≤ 226 := by
  have hlen := h.length_le_level
  obtain ⟨hlevel, hstk, hcount, -, -⟩ := h
  rcases hlevel.lt_or_eq with hlt | heq
  · omega
  · have hlen15 := length_le_levels 15 15 s.stk (fun r hr => ⟨(hstk r hr).1, h15 r hr⟩) fun k hk => hcount k (heq ▸ hk)
    omega

/-! ### What the invariant of a session says in each ST -/

theorem State.SessionOk.treeBefore {s : State} (h : s.SessionOk)
    (hst : s.st ∈ [.roundSent, .roundReceived, .extractTags, .processCollisions]) : s.TreeBefore := by
  have htree := h.tree
  simp only [List.mem_cons, List.not_mem_nil, or_false] at hst
  rcases hst with hst | hst | hst | hst <;> simpa only [State.Tree, hst] using htree

theorem State.SessionOk.treeAfter {s : State} (h : s.SessionOk) (hst : s.st = .pushMasks) : s.TreeAfter := by
  simpa only [State.Tree, hst] using h.tree

theorem State.SessionOk.treeNext {s : State} (h : s.SessionOk) (hst : s.st = .nextRound) :
    s.TreeAfter ∧ s.stk ≠ [] ∧ ∀ r ∈ s.stk, r.level ≤ 15 := by
  simpa only [State.Tree, hst] using h.tree

/-- In a session at most 241 masks are pending, in whatever ST (R144). -/
theorem State.SessionOk.length_le {s : State} (h : s.SessionOk) : s.stk.length ≤ 241 := by
  have htree := h.tree
  cases hst : s.st <;> simp only [State.Tree, hst] at htree
  case idle | done => simp [htree]
  case roundSent | roundReceived | extractTags | processCollisions => exact htree.length_le.trans (by decide)
  case pushMasks => exact htree.length_le
  case nextRound => exact htree.1.length_le
  case fatal => exact htree

/-- In a session COLLIDE is never refused: CUR is at most 60 bits long, and 225 and 16 masks fit on the stack. -/
theorem State.SessionOk.collide_completes {s : State} (h : s.SessionOk) (hst : s.st = .processCollisions) :
    exec .collide s = .next { s with stk := s.stk ++ s.newMasks, st := .pushMasks, reply := .none } := by
  have htree := h.treeBefore (by simp [hst])
  have hcur : s.cur.ok = true := h.ok.current (by rw [hst]; nofun)
  have hlen := len_eq_level hcur
  have hstk := htree.length_le
  have hbits := setBits_le s.coll
  obtain ⟨hlevel, -⟩ := htree
  exact exec_collide hst hcur (by omega) (by omega)

/-- Settles O56: the bounds on the stack by ST, and COLLIDE's next state. -/
theorem occupancyBound : Obligations.OccupancyBound := by
  intro s h
  have hlen := h.length_le
  refine ⟨(BitVec.toNat_ofNat _ 9).trans (Nat.mod_eq_of_lt (by omega)), hlen, fun hst => ?_,
    fun hst => ⟨_, h.collide_completes hst, rfl⟩⟩
  obtain ⟨htree, -, h15⟩ := h.treeNext hst
  exact htree.length_le_of_level_le h15

/-! ### How the pending masks change in a round -/

/-- The pushes of COLLIDE put at most 16 masks of the next level on top. -/
theorem State.TreeBefore.push {s : State} (h : s.TreeBefore) (hcur : s.cur.ok = true) :
    ({ s with stk := s.stk ++ s.newMasks } : State).TreeAfter := by
  obtain ⟨hlevel, hstk, hcount⟩ := h
  have hnew {r} (hr : r ∈ s.newMasks) := newMasks_level hcur hlevel hr
  have hold : s.stk.countP (fun r => r.level == s.cur.level + 1) = 0 :=
    countP_level_eq_zero fun r hr => by have := hstk r hr; omega
  have hsum (k) : ({ s with stk := s.stk ++ s.newMasks } : State).pendingAt k =
      s.pendingAt k + s.newMasks.countP fun r => r.level == k := List.countP_append
  refine ⟨hlevel, fun r hr => ?_, fun k (hk : k ≤ s.cur.level) => ?_, ?_, fun hcoll => ?_⟩
  · rcases List.mem_append.1 hr with hr | hr
    · obtain ⟨h1, hle⟩ := hstk r hr
      exact ⟨h1, Nat.le_succ_of_le hle⟩
    · rw [hnew hr]
      exact ⟨Nat.le_add_left 1 _, le_rfl⟩
  · rw [hsum, countP_level_eq_zero fun r hr => by have := hnew hr; omega]
    exact hcount k
  · rw [hsum, State.pendingAt, hold, Nat.zero_add]
    exact List.countP_le_length.trans (newMasks_length_le s)
  · have hnil : s.newMasks = [] := newMasks_eq_nil hcoll
    rw [hsum, State.pendingAt, hold, hnil]
    rfl

/-- The pushes of COLLIDE keep the stack sorted by mask length. -/
theorem sorted_append_newMasks {s : State} (h : s.TreeBefore) (hcur : s.cur.ok = true)
    (hs : s.stk.Pairwise fun a b => a.level ≤ b.level) : (s.stk ++ s.newMasks).Pairwise fun a b => a.level ≤ b.level := by
  obtain ⟨hlevel, hstk, -⟩ := h
  have hnew {r} (hr : r ∈ s.newMasks) := newMasks_level hcur hlevel hr
  refine List.pairwise_append.2 ⟨hs, List.pairwise_of_forall_mem_list fun a ha b hb => ?_, fun a ha b hb => ?_⟩
  · rw [hnew ha, hnew hb]
  · have := (hstk a ha).2
    rw [hnew hb]
    omega

/-- Where FATALCHK does not raise, no pending mask is of 64 bits: nothing collided, or CUR is shorter than 60 bits. -/
theorem State.TreeAfter.level_le {s : State} (h : s.TreeAfter) (hcur : s.cur.ok = true)
    (hcheck : ¬ (s.coll ≠ 0 ∧ s.cur.len.toNat = 60)) : ∀ r ∈ s.stk, r.level ≤ 15 := by
  obtain ⟨hlevel, hstk, -, -, hquiet⟩ := h
  intro r hr
  have hle := (hstk r hr).2
  by_cases hcoll : s.coll = 0
  · have hne : r.level ≠ s.cur.level + 1 := by simpa using List.countP_eq_zero.1 (hquiet hcoll) r hr
    omega
  · have hlen := len_eq_level hcur
    have h60 : s.cur.len.toNat ≠ 60 := fun h60 => hcheck ⟨hcoll, h60⟩
    omega

/-- NEXT makes the deepest pending mask CUR: of the others at most 15 are as deep, and none is deeper. -/
theorem State.TreeAfter.pop {s : State} {rest : List MaskReg} {r : MaskReg} (h : s.TreeAfter) (hs : s.stk = rest ++ [r])
    (hsorted : ∀ a ∈ rest, a.level ≤ r.level) (h15 : r.level ≤ 15) :
    ({ s with stk := rest, cur := r } : State).TreeBefore := by
  obtain ⟨-, hstk, hcount, hdeepest, -⟩ := h
  have hrle := (hstk r (by simp [hs])).2
  have hsum (k) : s.pendingAt k = rest.countP (fun a => a.level == k) + if r.level = k then 1 else 0 := by
    simp only [State.pendingAt, hs, List.countP_append, List.countP_singleton, beq_iff_eq]
  refine ⟨h15, fun a ha => ⟨(hstk a (by simp [hs, ha])).1, hsorted a ha⟩, fun k => ?_⟩
  change rest.countP (fun a => a.level == k) ≤ 15
  by_cases hk : r.level < k
  · rw [countP_level_eq_zero fun a ha => by have := hsorted a ha; omega]
    exact Nat.zero_le 15
  have hsumk := hsum k
  by_cases hkc : k ≤ s.cur.level
  · have hk15 := hcount k hkc
    omega
  · obtain rfl : k = s.cur.level + 1 := by omega
    rw [if_pos (by omega : r.level = s.cur.level + 1)] at hsumk
    omega

/-! ### Operation by operation

Every operation keeps the invariant of every step and the inputs; what is shown in each case is the shape of the stack and
the frame held. -/

/-- The last report is nothing the invariant speaks of. -/
theorem State.SessionOk.report {s : State} (h : s.SessionOk) (r : Reply) : (s.report r).SessionOk :=
  { h with ok := h.ok.report r }

theorem State.SessionOk.refuse {s : State} (h : s.SessionOk) : s.refuse.SessionOk := h.report _

/-- A raised error leaves the stack, and with it the bound of R144; no frame is held in Fatal. -/
theorem State.SessionOk.fatal {s t : State} (h : s.SessionOk) (hok : t.Ok) (hst : t.st = .fatal) (hstk : t.stk = s.stk)
    (hin : t.inputs = s.inputs) : t.SessionOk where
  ok := hok
  outside := hin ▸ h.outside
  sorted := hstk ▸ h.sorted
  tree := by
    simp only [State.Tree, hst, hstk]
    exact h.length_le
  held hf := by
    rw [hst] at hf
    cases hf

/-- A complete frame with a right pair that was latched, its length and its fields, is held (10_state.md R25, R26). -/
theorem frameHeld_of_held {t : State} {f : List Byte} (hf : IsFrame f) (hp : PairRight f)
    (hb : t.rxb.toList.take f.length = f) (hlen : t.rxlen = BitVec.ofNat 8 f.length) (hregs : t.f = (fieldsOf f).regs) :
    t.FrameHeld := by
  have h255 : f.length ≤ 255 := hf.2.1
  rw [State.FrameHeld, heldFrame_of_held h255 hb hlen, hlen, toNat_ofNat_of_le h255]
  exact ⟨hf, hp, rfl, hregs⟩

theorem start_keeps_session {s t : State} (h : s.SessionOk) (hx : exec .start s = .next t) : t.SessionOk := by
  have hok := start_keeps_ok h.ok hx
  rcases start_cases hx with ⟨-, rfl⟩ | ⟨-, rfl⟩
  · exact h.refuse
  · have hlevel : MaskReg.empty.level ≤ 15 := by decide
    exact { ok := hok, outside := h.outside, sorted := .nil, tree := ⟨hlevel, nofun, fun _ => Nat.zero_le 15⟩
            held := nofun }

theorem recv_keeps_session {s t : State} (h : s.SessionOk) (hx : exec .recv s = .next t) : t.SessionOk := by
  have hok := recv_keeps_ok h.ok hx
  rcases recv_cases hx with ⟨-, rfl⟩ | ⟨hst, ⟨f, rest, limits, -, hf, hp, rfl⟩ | ⟨e, rx, limits, reads, -, -, -, -, rfl⟩⟩
  · exact h.refuse
  · exact { ok := hok, outside := h.outside, sorted := h.sorted, tree := h.treeBefore (by simp [hst])
            held := fun _ => frameHeld_of_held hf hp (overlay_take f _ hf.2.1) rfl rfl }
  · exact h.fatal hok rfl rfl rfl

theorem isochk_keeps_session {s t : State} (h : s.SessionOk) (hx : exec .isochk s = .next t) : t.SessionOk := by
  have hok := isochk_keeps_ok h.ok hx
  rcases isochk_cases hx with ⟨-, rfl⟩ | ⟨hst, ⟨-, -, rfl⟩ | ⟨-, rfl⟩⟩
  · exact h.refuse
  · exact h.fatal hok rfl rfl rfl
  · exact { h with ok := hok, tree := h.treeBefore (by simp [hst]), held := fun _ => h.held (by rw [hst]; rfl) }

theorem extract_keeps_session {s t : State} (h : s.SessionOk) (hx : exec .extract s = .next t) : t.SessionOk := by
  have hok := extract_keeps_ok h.ok hx
  rcases extract_cases hx with ⟨-, rfl⟩ | ⟨hst, ⟨-, rfl⟩ | ⟨-, -, rfl⟩ | ⟨-, v, c, recs, -, -, rfl⟩⟩
  · exact h.refuse
  · exact h.fatal hok rfl rfl rfl
  · exact h.fatal hok rfl rfl rfl
  · exact { h with ok := hok, tree := h.treeBefore (by simp [hst]), held := fun _ => h.held (by rw [hst]; rfl) }

theorem collide_keeps_session {s t : State} (h : s.SessionOk) (hx : exec .collide s = .next t) : t.SessionOk := by
  have hok := collide_keeps_ok h.ok hx
  rcases collide_cases hx with ⟨-, rfl⟩ | ⟨hst, -⟩
  · exact h.refuse
  · cases (h.collide_completes hst).symm.trans hx
    have htree := h.treeBefore (by simp [hst])
    have hcur : s.cur.ok = true := h.ok.current (by rw [hst]; nofun)
    exact { ok := hok, outside := h.outside, sorted := sorted_append_newMasks htree hcur h.sorted, tree := htree.push hcur
            held := fun _ => h.held (by rw [hst]; rfl) }

theorem fatalchk_keeps_session {s t : State} (h : s.SessionOk) (hx : exec .fatalchk s = .next t) : t.SessionOk := by
  have hok := fatalchk_keeps_ok h.ok hx
  rcases fatalchk_cases hx with ⟨-, rfl⟩ | ⟨hst, ⟨-, -, rfl⟩ | ⟨-, hnil, rfl⟩ | ⟨hcheck, hne, rfl⟩⟩
  · exact h.refuse
  · exact h.fatal hok rfl rfl rfl
  · exact { h with ok := hok, tree := hnil, held := fun _ => h.held (by rw [hst]; rfl) }
  · have htree := h.treeAfter hst
    have hcur : s.cur.ok = true := h.ok.current (by rw [hst]; nofun)
    exact { h with ok := hok, tree := ⟨htree, hne, htree.level_le hcur hcheck⟩
                   held := fun _ => h.held (by rw [hst]; rfl) }

theorem next_keeps_session {s t : State} (h : s.SessionOk) (hx : exec .next s = .next t) : t.SessionOk := by
  have hok := next_keeps_ok h.ok hx
  rcases next_cases hx with ⟨-, rfl⟩ | ⟨hst, ⟨-, rfl⟩ | ⟨-, rest, r, hs, -, rfl⟩⟩
  · exact h.refuse
  · exact h.fatal hok rfl rfl rfl
  · obtain ⟨htree, -, h15⟩ := h.treeNext hst
    have hr : r ∈ s.stk := by simp [hs]
    have hsorted := h.sorted
    rw [hs] at hsorted
    obtain ⟨hrest, -, hle⟩ := List.pairwise_append.1 hsorted
    simp only [((ok_iff r).1 (h.ok.stack r hr)).2] at hok ⊢
    exact { ok := hok, outside := h.outside, sorted := hrest
            tree := htree.pop hs (fun a ha => hle a ha r (List.mem_singleton_self r)) (h15 r hr), held := nofun }

/-- The host's commands and the micro-operation of ST keep the invariant of a session. -/
theorem exec_keeps_session {i : Instr} {s t : State} (h : s.SessionOk)
    (hi : i = .nop ∨ i = .start ∨ i = .cancel ∨ microOf s.st = some i) (hx : exec i s = .next t) : t.SessionOk := by
  rcases hi with rfl | rfl | rfl | hi
  · cases hx; exact h
  · exact start_keeps_session h hx
  · have hok := exec_keeps_ok h.ok hx
    cases hx; exact { h with ok := hok }
  · exact match s.st, hi with
      | .roundSent, rfl => recv_keeps_session h hx
      | .roundReceived, rfl => isochk_keeps_session h hx
      | .extractTags, rfl => extract_keeps_session h hx
      | .processCollisions, rfl => collide_keeps_session h hx
      | .pushMasks, rfl => fatalchk_keeps_session h hx
      | .nextRound, rfl => next_keeps_session h hx

/-- Settles O54: a step from outside is a reset, a wait, a host command or ST's micro-operation, or a refusal. -/
theorem everyStepKeepsSession : Obligations.EveryStepKeepsSession := by
  intro s t h hstep
  have hconsume : s.consume.SessionOk :=
    { h with ok := { h.ok with }, outside := fun x hx => h.outside x (List.mem_of_mem_tail hx) }
  rcases step_outside h.outside with ⟨-, e⟩ | ⟨-, e⟩ | ⟨i, hi, e⟩ | e
  · cases e.symm.trans hstep
    exact { ok := hardReset_ok hconsume.ok.params, outside := hconsume.outside, sorted := .nil, tree := rfl, held := nofun }
  · cases e.symm.trans hstep
    exact hconsume
  · exact exec_keeps_session hconsume hi (e.symm.trans hstep)
  · cases e.symm.trans hstep
    exact hconsume.refuse

end Sys2Proof.Machine

/-! PROOF. The interpreter functions (42_inventory_engine.md section 4, R161 to R166): what each reports on its operands. -/

namespace Sys2Proof.Machine

/-! ### BUILDREQ and DERIVE (R161, R162) -/

/-- Settles O37: the operands BUILDREQ accepts are the shaped masks. -/
theorem buildreqPayload : Obligations.BuildreqPayload := by
  refine fun m s => ⟨decode_encode (.buildreq m), fun h4 hl hb => ?_, fun h => ?_⟩
  · simp only [exec, execBuildreq, buildRequest_eq m ((shaped_iff m).2 ⟨h4, hl, hb⟩), State.report]
  · have hshaped : m.shaped = false := by
      rw [Bool.eq_false_iff, Ne, shaped_iff, ceil8]
      omega
    simp only [exec, execBuildreq, buildRequest_none m hshaped, State.refuse, State.report]

/-- DERIVE of a well-formed mask of at most 60 bits and a slot reports the mask of that colliding slot. -/
theorem exec_derive {m : Mask} {slot : Nat} (hm : m.wellFormed = true) (hl : m.len ≤ 60) (hs : slot ≤ 15) (s : State) :
    exec (.derive m slot) s = .next { s with reply := .mask (childMask m slot) } := by
  simp only [exec, execDerive, deriveMask_eq m slot hm hl hs, State.report]

/-- Settles O38: inside its domain DERIVE gives the colliding slot's mask, outside it is refused. -/
theorem derivePlacesSlot : Obligations.DerivePlacesSlot := by
  refine fun m slot s => ⟨decode_encode (.derive m slot), fun hm hl hs => exec_derive hm hl hs s, fun h => ?_⟩
  simp only [exec, execDerive, deriveMask_none m slot h, State.refuse, State.report]

/-- A byte with nothing in its high nibble and a slot put there: the slot is the high nibble, the low one is kept. -/
theorem toNat_or_high_nibble {b : Byte} {slot : Nat} (hb : b.toNat < 16) (hs : slot ≤ 15) :
    (b ||| BitVec.ofNat 8 (16 * slot)).toNat = 16 * slot + b.toNat := by
  have hdisjoint : 2 ^ 4 * slot + b.toNat = 2 ^ 4 * slot ||| b.toNat := Nat.two_pow_add_eq_or_of_lt hb slot
  rw [BitVec.toNat_or, BitVec.toNat_ofNat, Nat.mod_eq_of_lt (by omega), Nat.or_comm]
  exact hdisjoint.symm

/-- Where a whole number of bytes is there, the new nibble stands in a new byte. -/
theorem nibbleOf_child_even {m : Mask} {slot : Nat} (hlen : m.len % 8 = 0) (hb : m.bytes.length = m.len / 8)
    (hs : slot ≤ 15) :
    nibbleOf (childMask m slot) (m.len / 4) = slot ∧
      ∀ k, k < m.len / 4 → nibbleOf (childMask m slot) k = nibbleOf m k := by
  simp only [nibbleOf, childMask, if_pos hlen, List.getD_eq_getElem?_getD]
  refine ⟨?_, fun k hk => ?_⟩
  · rw [show m.len / 4 / 2 = m.bytes.length by omega, show m.len / 4 % 2 = 0 by omega, List.getElem?_concat_length]
    simp
    omega
  · rw [List.getElem?_append_left (by omega)]

/-- Where the last byte holds one nibble, the new one is its high nibble, and its low nibble is kept. -/
theorem nibbleOf_child_odd {bs : List Byte} {b : Byte} {n slot : Nat} (hlen : n % 8 = 4) (hbs : bs.length = n / 8)
    (hb : b.toNat < 16) (hs : slot ≤ 15) :
    nibbleOf (childMask ⟨n, bs ++ [b]⟩ slot) (n / 4) = slot ∧
      ∀ k, k < n / 4 → nibbleOf (childMask ⟨n, bs ++ [b]⟩ slot) k = nibbleOf ⟨n, bs ++ [b]⟩ k := by
  have hbyte := toNat_or_high_nibble hb hs
  have hodd : ¬ n % 8 = 0 := by omega
  simp only [nibbleOf, childMask, if_neg hodd, List.dropLast_concat, List.getLastD_concat, List.getD_eq_getElem?_getD]
  refine ⟨?_, fun k hk => ?_⟩
  · rw [show n / 4 / 2 = bs.length by omega, show n / 4 % 2 = 1 by omega, List.getElem?_concat_length, Option.getD_some,
      hbyte]
    omega
  · by_cases hlast : k / 2 < bs.length
    · rw [List.getElem?_append_left hlast, List.getElem?_append_left hlast]
    · rw [show k / 2 = bs.length by omega, show k % 2 = 0 by omega, List.getElem?_concat_length,
        List.getElem?_concat_length, Option.getD_some, Option.getD_some, hbyte]
      omega

/-- The mask of a colliding slot has the slot as its last 4-bit group and the given mask's groups before it (R86, R168). -/
theorem nibbleOf_childMask {m : Mask} {slot : Nat} (hm : m.wellFormed = true) (hs : slot ≤ 15) :
    nibbleOf (childMask m slot) (m.len / 4) = slot ∧
      ∀ k, k < m.len / 4 → nibbleOf (childMask m slot) k = nibbleOf m k := by
  obtain ⟨hshaped, hcanon⟩ := (wellFormed_iff m).1 hm
  obtain ⟨h4, -, hb⟩ := (shaped_iff m).1 hshaped
  rw [ceil8] at hb
  by_cases h8 : m.len % 8 = 0
  · exact nibbleOf_child_even h8 (by omega) hs
  · obtain ⟨n, bytes⟩ := m
    simp only at h4 hb h8
    obtain rfl | ⟨bs, b, rfl⟩ := bytes.eq_nil_or_concat'
    · simp only [List.length_nil] at hb
      omega
    · have hlow := (canonical_iff _).1 hcanon (by simp only; omega)
      rw [List.getLastD_concat] at hlow
      rw [List.length_append, List.length_singleton] at hb
      exact nibbleOf_child_odd (by omega) (by omega) hlow hs

/-- Settles O39: the derived mask is the colliding slot's, whose groups `nibbleOf_childMask` gives. -/
theorem deriveGrowsByOneNibble : Obligations.DeriveGrowsByOneNibble := by
  intro m slot s hm hl hs
  exact ⟨childMask m slot, exec_derive hm hl hs s, childMask_wellFormed m slot hm hl hs, childMask_len m slot,
    nibbleOf_childMask hm hs⟩

/-! ### TAGPARSE (R163) -/

/-- Byte j of a byte put at byte k of a 64-bit word. -/
theorem extractLsb'_shiftLeft_byte (b : Byte) {j k : Nat} (hj : j < 8) :
    ((b.zeroExtend 64) <<< (8 * k)).extractLsb' (8 * j) 8 = if j = k then b else 0 := by
  apply BitVec.eq_of_getLsbD_eq
  intro i hi
  simp only [BitVec.truncate_eq_setWidth, BitVec.getLsbD_extractLsb', BitVec.getLsbD_shiftLeft, BitVec.getLsbD_setWidth,
    hi, decide_true, Bool.true_and, show 8 * j + i < 64 by omega]
  split
  · subst j
    simp [show 8 * k + i - 8 * k = i by omega, show i < 64 by omega]
  · by_cases hlt : 8 * j + i < 8 * k
    · simp [hlt]
    · simp [BitVec.getLsbD_of_ge b (8 * j + i - 8 * k) (by omega)]

/-- The UID has block byte j as its byte j. -/
theorem parseTag_uid_byte (blk : List Byte) {j : Nat} (hj : j < 8) :
    (parseTag blk).uid.extractLsb' (8 * j) 8 = blk.getD j 0 := by
  have hbyte (k) := extractLsb'_shiftLeft_byte (blk.getD k 0) (k := k) hj
  have h0 := hbyte 0
  simp only [Nat.mul_zero, BitVec.shiftLeft_zero] at h0
  simp only [parseTag, BitVec.extractLsb'_or, h0, hbyte 1, hbyte 2, hbyte 3, hbyte 4, hbyte 5, hbyte 6, hbyte 7]
  interval_cases j <;> simp

/-- Settles O40: the record of the block, its UID byte by byte. -/
theorem tagparseReadsBlock : Obligations.TagparseReadsBlock := by
  intro blk s hlen
  refine ⟨decode_encode (.tagparse blk), parseTag blk, ?_, fun j hj => parseTag_uid_byte blk hj, rfl⟩
  exact if_pos (decide_eq_true hlen)

/-! ### ISOMAP, VSCAN and CSCAN (R164 to R166) -/

/-- Settles O41: ISOMAP and MEANING are one function of a code. -/
theorem isomapMeaning : Obligations.IsomapMeaning :=
  fun code _ => ⟨decode_encode (.isomap code), ⟨_, rfl, rfl⟩, rfl⟩

/-- Settles O42: the slots below 16 in ascending order, of which the set ones are kept. -/
theorem vscanAscending : Obligations.VscanAscending :=
  fun v _ => ⟨decode_encode (.vscan v), vscan v, rfl, List.pairwise_lt_range.filter _, mem_vscan v, vscan_length v⟩

/-- CSCAN goes through the scan positions in ascending order, and at each the low-byte slot comes first. -/
theorem cscan_pairwise (c : BitVec 16) :
    (cscan c).Pairwise fun a b => a % 8 < b % 8 ∨ a % 8 = b % 8 ∧ a < b := by
  have hpos {p a} (hp : p ∈ List.range 8)
      (ha : a ∈ (if c.getLsbD p then [p] else []) ++ (if c.getLsbD (p + 8) then [p + 8] else [])) : a % 8 = p := by
    have hslot : a = p ∨ a = p + 8 := (List.mem_append.1 ha).imp (by split <;> simp) (by split <;> simp)
    have hp := List.mem_range.1 hp
    omega
  refine List.pairwise_flatMap.2 ⟨fun p _ => ?_, List.pairwise_lt_range.imp_of_mem fun hp hq hpq a ha b hb => ?_⟩
  · split <;> split <;> simp
  · rw [hpos hp ha, hpos hq hb]
    exact .inl hpq

/-- Settles O43: the order of CSCAN's list, its members and its length. -/
theorem cscanInterleaved : Obligations.CscanInterleaved :=
  fun c _ => ⟨decode_encode (.cscan c), cscan c, rfl, cscan_pairwise c, mem_cscan c, cscan_length c⟩

end Sys2Proof.Machine

/-! PROOF. The operations of the inventory engine (42_inventory_engine.md sections 2 and 3, R150 to R160): which of them a
step performs, and the next state of each where it is accepted. -/

namespace Sys2Proof.Machine

/-! ### Dispatch (R150) -/

/-- In the sequencer's turn a step is the micro-operation of ST. -/
theorem step_of_microOf {s : State} {i : Instr} (ht : s.turn = s.sequencerTurn) (hi : microOf s.st = some i) :
    step s = exec i s.consume := by
  rcases step_sequencer ht with ⟨hnone, -⟩ | ⟨j, hj, h⟩
  · cases hnone.symm.trans hi
  · cases hj.symm.trans hi
    exact h

/-- In the sequencer's turn a step in an ST without a micro-operation waits. -/
theorem step_of_microOf_none {s : State} (ht : s.turn = s.sequencerTurn) (hi : microOf s.st = none) :
    step s = .next s.consume := by
  rcases step_sequencer ht with ⟨-, h⟩ | ⟨j, hj, -⟩
  · exact h
  · cases hj.symm.trans hi

/-- The sequencer acts where an input says so and where no input is left (log 1). -/
theorem turn_sequencer {s : State} (h : s.inputs = [] ∨ ∃ rest, s.inputs = .sequencer :: rest) :
    s.turn = s.sequencerTurn := by
  obtain h | ⟨rest, h⟩ := h <;> rw [State.turn, h]

/-- With no input pending a step is the micro-operation of ST. -/
theorem step_micro {s : State} {i : Instr} (hin : s.inputs = []) (hi : microOf s.st = some i) : step s = exec i s := by
  rw [step_of_microOf (turn_sequencer (.inl hin)) hi, consume_of_inputs_eq_nil hin]

theorem runSteps_succ {s u : State} (h : step s = .next u) (n : Nat) : runSteps (n + 1) s = runSteps n u := by
  rw [runSteps, h]

/-- The host's code, zero-extended, is the word performed (R96). -/
theorem step_host {s : State} {c : BitVec 2} {i : Instr} (h : s.inputs.head? = some (.host c))
    (hd : decode (hostRequest c) = .ok i) : step s = exec i s.consume := by
  obtain ⟨rest, hs⟩ := List.head?_eq_some_iff.1 h
  exact step_of_decode_eq_ok (turn_host hs) hd

/-- Settles O5: the sequencer's turn by ST, and the host's three codes. -/
theorem sequencerDispatch : Obligations.SequencerDispatch := by
  intro s u
  refine ⟨fun h => ?_, fun h => step_host h rfl, fun h => step_host h rfl, fun h => step_host h rfl⟩
  have ht := turn_sequencer h
  cases hst : s.st with
  | idle | done | fatal => exact step_of_microOf_none ht (by rw [hst]; rfl)
  | roundSent | roundReceived | extractTags | processCollisions | pushMasks | nextRound =>
    exact step_of_microOf ht (by rw [hst]; rfl)

/-! ### NOP, START and SENDREQ (R151, R152, R154) -/

/-- Settles O8: NOP's meaning is the state it is given. -/
theorem nopChangesNothing : Obligations.NopChangesNothing :=
  ⟨decode_encode .nop, fun _ => rfl⟩

/-- No session runs in Idle, Done and Fatal, and in no other ST (10_state.md R28). -/
theorem busy_eq_false_iff (s : State) : s.busy = false ↔ s.st = .idle ∨ s.st = .done ∨ s.st = .fatal := by
  rw [State.busy]
  cases s.st <;> decide

/-- START, while no session runs, resets the session and sends the request of the empty mask. -/
theorem exec_start {s : State} (h : s.busy = false) :
    exec .start s = .next { s with
      stk := [], tags := [], tagcnt := 0, err := .none, isocode := 0, cancelReq := false, rounds := 1
      cur := .empty, txb := overlay (requestOf s.params ⟨0, []⟩) s.txb, txlen := 12
      link := s.link ++ [.write (requestOf s.params ⟨0, []⟩)], st := .roundSent, reply := .none } := by
  have hmask : (sessionReset s).curMask = ⟨0, []⟩ := maskOfReg_empty
  have hsend := sendRequest_eq (sessionReset s) (by rw [hmask]; rfl)
  simp only [exec, execStart, if_neg (Bool.eq_false_iff.1 h), hsend, hmask]
  simp [MaskReg.empty]

theorem exec_start_busy {s : State} (h : s.busy = true) : exec .start s = .next s.refuse :=
  if_pos h

/-- Settles O9: START by BUSY. -/
theorem startBeginsSession : Obligations.StartBeginsSession := by
  refine ⟨decode_encode .start, fun s => ⟨fun h => exec_start ((busy_eq_false_iff s).2 h), fun h => exec_start_busy ?_⟩⟩
  rw [← Bool.not_eq_false, busy_eq_false_iff]
  tauto

/-- Settles O11: a request can be built of a shaped CUR, and SENDREQ adds the report only. -/
theorem sendreqSendsCurrentMask : Obligations.SendreqSendsCurrentMask := by
  refine ⟨decode_encode .sendreq, fun s h => ?_⟩
  simp only [exec, execSendreq, sendRequest_eq s h, State.report]

/-! ### RECV and ISOCHK (R155, R156) -/

theorem exec_recv_of_error {s d : State} {e : Err} (hst : s.st = .roundSent) (h : receiveFrame s = (.error e, d)) :
    exec .recv s = .next (d.raise e) := by
  simp only [exec, execRecv, hst, if_true, h]

/-- Settles O12: DECODE and RECV follow one reception. -/
theorem recvIsDecodeThenTransition : Obligations.RecvIsDecodeThenTransition := by
  refine ⟨decode_encode .recv, fun s hst => ?_⟩
  rcases hr : receiveFrame s with ⟨e | r, d⟩
  · have hrecv := exec_recv_of_error hst hr
    exact ⟨_, exec_decode_of_error hr, .inr ⟨e, rfl, (receiveFrame_error hr).1, hrecv⟩⟩
  · have hrecv := exec_recv_of_ok hst hr
    exact ⟨_, exec_decode_of_ok hr, .inl ⟨r, rfl, hrecv⟩⟩

theorem exec_isochk_isoError {s : State} (hst : s.st = .roundReceived)
    (h : s.f.len = s.params.errFrameLen ∧ s.rxb[s.params.errCodeOff] ≠ 0) :
    exec .isochk s = .next { s with
      isocode := s.rxb[s.params.errCodeOff], err := .isoError, st := .fatal, reply := .raised .isoError } := by
  simp only [exec, execIsochk, if_pos hst, if_pos h, State.raise]

theorem exec_isochk_passes {s : State} (hst : s.st = .roundReceived)
    (h : ¬ (s.f.len = s.params.errFrameLen ∧ s.rxb[s.params.errCodeOff] ≠ 0)) :
    exec .isochk s = .next { s with st := .extractTags, reply := .none } := by
  simp only [exec, execIsochk, if_pos hst, if_neg h]

/-- Settles O18: ISOCHK's test and its two outcomes. -/
theorem isochkChecksErrorFrame : Obligations.IsochkChecksErrorFrame := by
  refine ⟨decode_encode .isochk, fun s hst => ⟨exec_isochk_isoError hst, fun h => exec_isochk_passes hst ?_⟩⟩
  tauto

/-! ### EXTRACT (R157) -/

/-- The collision field EXTRACT assembles is the one in RXB. -/
theorem collField_eq (s : State) (h : 4 ≤ s.f.plen.toNat) :
    flagField (s.payload.getD 2 0) (s.payload.getD 3 0) = s.rxb.toList.getD 9 0 ++ s.rxb.toList.getD 8 0 := by
  have hbyte (i) (hi : i < 4) : s.payload.getD i 0 = s.rxb.toList.getD (6 + i) 0 := by
    rw [State.payload, Config.hdrLen, List.getD_eq_getElem?_getD, List.getElem?_take_of_lt (by omega), List.getElem?_drop,
      List.getD_eq_getElem?_getD]
  rw [flagField_eq, hbyte 2 (by omega), hbyte 3 (by omega)]

/-- The records EXTRACT appends are parsed from the tag blocks in RXB, where the payload is long enough for them all. -/
theorem tagRecords_payload (s : State) {n : Nat} (h : 4 + 10 * n ≤ s.f.plen.toNat) :
    tagRecords s.payload n = (List.range n).map fun i => parseTag ((s.rxb.toList.drop (10 + 10 * i)).take 10) := by
  refine List.map_congr_left fun i hi => ?_
  have hi := List.mem_range.1 hi
  rw [State.payload, Config.tagBlock, Config.hdrLen, List.drop_take, List.drop_drop, List.take_take,
    Nat.min_eq_left (by omega), ← Nat.add_assoc]

/-- A payload too short for the flag fields, or for the tag blocks they announce. -/
theorem exec_extract_malformed {s : State} (hst : s.st = .extractTags)
    (h : s.f.plen.toNat < 4 ∨
      s.f.plen.toNat < 4 + 10 * setBits (s.rxb.toList.getD 7 0 ++ s.rxb.toList.getD 6 0)) :
    exec .extract s = .next (s.raise .malformedResponse) := by
  by_cases h4 : s.f.plen.toNat < 4
  · simp only [exec, execExtract, if_pos hst, if_pos h4]
  · have hshort := h.resolve_left h4
    simp only [exec, execExtract, if_pos hst, if_neg h4, validField_eq s (by omega), popcount16_eq_setBits,
      Config.tagBlock, if_pos hshort]

/-- A payload long enough, and more tags than TAGCNT can count. -/
theorem exec_extract_overflow {s : State} (hst : s.st = .extractTags) (h4 : 4 ≤ s.f.plen.toNat)
    (hlong : 4 + 10 * setBits (s.rxb.toList.getD 7 0 ++ s.rxb.toList.getD 6 0) ≤ s.f.plen.toNat)
    (hmax : 2 ^ 32 - 1 < s.tagcnt.toNat + setBits (s.rxb.toList.getD 7 0 ++ s.rxb.toList.getD 6 0)) :
    exec .extract s = .next (s.raise .resultOverflow) := by
  simp only [exec, execExtract, if_pos hst, if_neg (Nat.not_lt.2 h4), validField_eq s h4, popcount16_eq_setBits,
    Config.tagBlock, if_neg (Nat.not_lt.2 hlong), Config.tagMax, if_pos hmax]

/-- A payload long enough whose tags can be counted. -/
theorem exec_extract_appends {s : State} (hst : s.st = .extractTags) (h4 : 4 ≤ s.f.plen.toNat)
    (hlong : 4 + 10 * setBits (s.rxb.toList.getD 7 0 ++ s.rxb.toList.getD 6 0) ≤ s.f.plen.toNat)
    (hmax : s.tagcnt.toNat + setBits (s.rxb.toList.getD 7 0 ++ s.rxb.toList.getD 6 0) ≤ 2 ^ 32 - 1) :
    let n := setBits (s.rxb.toList.getD 7 0 ++ s.rxb.toList.getD 6 0)
    let recs := (List.range n).map fun i => parseTag ((s.rxb.toList.drop (10 + 10 * i)).take 10)
    exec .extract s = .next { s with
      valid := s.rxb.toList.getD 7 0 ++ s.rxb.toList.getD 6 0, coll := s.rxb.toList.getD 9 0 ++ s.rxb.toList.getD 8 0
      tags := s.tags ++ recs, tagcnt := BitVec.ofNat 32 (s.tagcnt.toNat + n), tagOut := s.tagOut ++ recs
      st := .processCollisions, reply := .none } := by
  simp only [exec, execExtract, if_pos hst, if_neg (Nat.not_lt.2 h4), validField_eq s h4, collField_eq s h4,
    popcount16_eq_setBits, Config.tagBlock, if_neg (Nat.not_lt.2 hlong), Config.tagMax, if_neg (Nat.not_lt.2 hmax),
    tagRecords_payload s hlong, BitVec.ofNat_add, BitVec.ofNat_toNat, BitVec.setWidth_eq]

/-- Settles O19: EXTRACT's three tests in order and its effect, read from RXB. -/
theorem extractAppendsTags : Obligations.ExtractAppendsTags :=
  ⟨decode_encode .extract, fun _ hst =>
    ⟨exec_extract_malformed hst, exec_extract_overflow hst, exec_extract_appends hst⟩⟩

/-! ### COLLIDE, FATALCHK and NEXT (R158 to R160) -/

/-- Settles O20: the masks COLLIDE pushes are `newMasks`. -/
theorem collidePushesNewMasks : Obligations.CollidePushesNewMasks :=
  ⟨decode_encode .collide, fun _ => exec_collide⟩

/-- FATALCHK's test on CUR_LEN: a mask grown from it would have 64 bits. -/
theorem len_eq_sixty_iff (s : State) : s.cur.len = 60 ↔ s.cur.len.toNat + Config.grow = Config.maskMax := by
  rw [← BitVec.toNat_inj, Config.grow, Config.maskMax]
  exact ⟨fun h => by rw [h]; rfl, fun h => Nat.add_right_cancel (m := 4) h⟩

theorem exec_fatalchk_raises {s : State} (hst : s.st = .pushMasks) (h : s.coll ≠ 0 ∧ s.cur.len = 60) :
    exec .fatalchk s = .next (s.raise .clonedOrFaultError) := by
  rw [len_eq_sixty_iff] at h
  simp only [exec, execFatalchk, if_pos hst, if_pos h]

theorem exec_fatalchk_nextRound {s : State} (hst : s.st = .pushMasks) (h : ¬ (s.coll ≠ 0 ∧ s.cur.len = 60))
    (hstk : s.stk ≠ []) : exec .fatalchk s = .next { s with st := .nextRound, reply := .none } := by
  rw [len_eq_sixty_iff] at h
  have hempty : ¬ s.stkEmpty = true := by simpa [State.stkEmpty] using hstk
  simp only [exec, execFatalchk, if_pos hst, if_neg h, if_neg hempty]

theorem exec_fatalchk_done {s : State} (hst : s.st = .pushMasks) (h : ¬ (s.coll ≠ 0 ∧ s.cur.len = 60))
    (hstk : s.stk = []) : exec .fatalchk s = .next { s with st := .done, reply := .none } := by
  rw [len_eq_sixty_iff] at h
  have hempty : s.stkEmpty = true := by simpa [State.stkEmpty] using hstk
  simp only [exec, execFatalchk, if_pos hst, if_neg h, if_pos hempty]

/-- Settles O21: FATALCHK's two tests. -/
theorem fatalchkChooses : Obligations.FatalchkChooses := by
  refine ⟨decode_encode .fatalchk, fun s hst => ⟨exec_fatalchk_raises hst, fun ⟨h, hstk⟩ => ?_, fun ⟨h, hstk⟩ => ?_⟩⟩
  · exact exec_fatalchk_nextRound hst (by tauto) hstk
  · exact exec_fatalchk_done hst (by tauto) hstk

theorem exec_next_cancelled {s : State} (hst : s.st = .nextRound) (h : s.cancelReq = true) :
    exec .next s = .next (s.raise .cancelled) := by
  simp only [exec, execNext, if_pos hst, if_pos h]

/-- NEXT, not cancelled, makes the mask pushed last the current one and sends its request. -/
theorem exec_next_pops {s : State} (hst : s.st = .nextRound) (h : s.cancelReq = false) {rest : List MaskReg} {r : MaskReg}
    (hstk : s.stk = rest ++ [r]) (hr : r.ok = true) :
    exec .next s = .next { s with
      stk := rest, cur := r
      txb := overlay (requestOf s.params (maskOfReg r)) s.txb
      txlen := BitVec.ofNat 8 (12 + (r.len.toNat + 7) / 8)
      link := s.link ++ [.write (requestOf s.params (maskOfReg r))]
      rounds := s.rounds + 1, st := .roundSent, reply := .none } := by
  obtain ⟨hw, hreg⟩ := (ok_iff r).1 hr
  have hsend := sendRequest_eq { s with stk := rest, cur := r } ((wellFormed_iff _).1 hw).1
  simp only [exec, execNext, if_pos hst, if_neg (Bool.eq_false_iff.1 h), popMask_append s rest r hstk, hreg, hsend]
  rfl

/-- Settles O22: NEXT by CANCEL_REQ. -/
theorem nextPopsAndSends : Obligations.NextPopsAndSends :=
  ⟨decode_encode .next, fun _ hst => ⟨exec_next_cancelled hst, fun h _ _ => exec_next_pops hst h⟩⟩

end Sys2Proof.Machine

/-! PROOF. The inventory engine as a whole (42_inventory_engine.md R153, R167, R169): which operations depend on
CANCEL_REQ, the transitions of ST, and the order in which masks are explored. -/

namespace Sys2Proof.Machine

/-! ### CANCEL_REQ (R153) -/

/-- The state with another value of CANCEL_REQ. -/
def State.withCancelReq (b : Bool) (s : State) : State := { s with cancelReq := b }

@[simp] theorem withCancelReq_params (b : Bool) (s : State) : (s.withCancelReq b).params = s.params := rfl
@[simp] theorem withCancelReq_coll (b : Bool) (s : State) : (s.withCancelReq b).coll = s.coll := rfl
@[simp] theorem withCancelReq_curMask (b : Bool) (s : State) : (s.withCancelReq b).curMask = s.curMask := rfl

/-- A reception does not depend on CANCEL_REQ. -/
theorem receiveFrame_withCancelReq (b : Bool) (s : State) :
    receiveFrame (s.withCancelReq b) = ((receiveFrame s).1, (receiveFrame s).2.withCancelReq b) := by
  have hread (n : Nat) (u : State) : memRead n (u.withCancelReq b) = ((memRead n u).1, (memRead n u).2.withCancelReq b) :=
    rfl
  simp only [receiveFrame, hread]
  split_ifs <;> rfl

/-- PUSH does not depend on CANCEL_REQ. -/
theorem pushMask_withCancelReq (b : Bool) (m : Mask) (s : State) :
    pushMask m (s.withCancelReq b) = (pushMask m s).map (State.withCancelReq b) := by
  unfold pushMask
  simp only [apply_ite (Option.map _)]
  rfl

/-- What PUSH does not depend on, the pushes of COLLIDE do not depend on. -/
theorem pushDerived_map {g : State → State} (hg : ∀ d u, pushMask d (g u) = (pushMask d u).map g) (m : Mask)
    (slots : List Nat) (s : State) : pushDerived m slots (g s) = (pushDerived m slots s).map g := by
  induction slots generalizing s with
  | nil => rfl
  | cons slot rest ih =>
    unfold pushDerived
    cases deriveMask m slot with
    | none => rfl
    | some d =>
      simp only [hg]
      cases pushMask d s with
      | none => rfl
      | some u => exact ih u

/-- POP does not depend on CANCEL_REQ. -/
theorem popMask_withCancelReq (b : Bool) (s : State) :
    popMask (s.withCancelReq b) = (popMask s).map fun p => (p.1, p.2.withCancelReq b) := by
  obtain hs | ⟨rest, r, hs⟩ := s.stk.eq_nil_or_concat'
  · rw [popMask_nil s hs, popMask_nil (s.withCancelReq b) hs]; rfl
  · rw [popMask_append s rest r hs, popMask_append (s.withCancelReq b) rest r hs]; rfl

/-- SENDREQ does not depend on CANCEL_REQ. -/
theorem sendRequest_withCancelReq (b : Bool) (s : State) :
    sendRequest (s.withCancelReq b) = (sendRequest s).map (State.withCancelReq b) := by
  cases h : s.curMask.shaped with
  | false => rw [sendRequest_none s h, sendRequest_none (s.withCancelReq b) h]; rfl
  | true => rw [sendRequest_eq s h, sendRequest_eq (s.withCancelReq b) h]; rfl

/-- No operation but NEXT depends on CANCEL_REQ, and none but START and CANCEL writes it. -/
theorem exec_withCancelReq {i : Instr} (hnext : i ≠ .next) (hstart : i ≠ .start) (hcancel : i ≠ .cancel) (b : Bool)
    (s : State) : exec i (s.withCancelReq b) = mapNext (State.withCancelReq b) (exec i s) := by
  cases i with
  | next => exact absurd rfl hnext
  | start => exact absurd rfl hstart
  | cancel => exact absurd rfl hcancel
  | nop | csum | isomap | vscan | cscan | clear => rfl
  | verify | fields | tagparse =>
    simp only [exec, execVerify, execFields, execTagparse, mapNext_ite]
    rfl
  | isochk | extract | fatalchk =>
    simp only [exec, execIsochk, execExtract, execFatalchk, mapNext_ite]
    rfl
  | encode | buildreq | derive =>
    simp only [exec, execEncode, execBuildreq, execDerive, withCancelReq_params]
    split <;> rfl
  | push m =>
    simp only [exec, execPush, pushMask_withCancelReq]
    cases pushMask m s <;> rfl
  | pop =>
    simp only [exec, execPop, popMask_withCancelReq]
    cases popMask s <;> rfl
  | sendreq =>
    simp only [exec, execSendreq, sendRequest_withCancelReq]
    cases sendRequest s <;> rfl
  | decode =>
    simp only [exec, execDecode, receiveFrame_withCancelReq]
    rcases receiveFrame s with ⟨_ | _, d⟩ <;> rfl
  | recv =>
    simp only [exec, execRecv, receiveFrame_withCancelReq, mapNext_ite]
    rcases receiveFrame s with ⟨_ | _, d⟩ <;> rfl
  | collide =>
    simp only [exec, execCollide, pushDerived_map (pushMask_withCancelReq b), mapNext_ite, withCancelReq_coll,
      withCancelReq_curMask]
    cases pushDerived s.curMask (cscan s.coll) s <;> rfl

/-- Settles O10: CANCEL by its meaning, and the other operations by what they read. -/
theorem cancelSetsFlagOnlyNextReads : Obligations.CancelSetsFlagOnlyNextReads :=
  ⟨decode_encode .cancel, fun _ => rfl, fun _ s b hnext hstart hcancel => exec_withCancelReq hnext hstart hcancel b s⟩

/-! ### The transitions of ST (R167) -/

/-- The reset input is one step, in any state (70_reset_and_hazards.md R210). -/
theorem step_hwReset {s : State} {rest : List Input} (h : s.inputs = .hwReset :: rest) :
    step s = .next (hardReset s.consume) := by
  have ht : s.turn = .reset := by rw [State.turn, h]
  simp only [step, ht]

/-- START enters RoundSent from Idle, Done and Fatal. -/
theorem start_enters_roundSent {s t : State} (h : exec .start s = .next t) (hb : s.busy = false) :
    t.st = .roundSent := by
  cases (exec_start hb).symm.trans h
  rfl

/-- Settles O47: the rows of the table one by one; in every other pair the operation is not that of ST, or START is
refused. -/
theorem transitionRelation : Obligations.TransitionRelation := by
  refine ⟨fun i s t h => ?_, fun s rest h => ⟨_, step_host_three h, rfl⟩, fun s rest h => ⟨_, step_hwReset h, rfl⟩⟩
  split
  next hst => exact start_enters_roundSent h ((busy_eq_false_iff s).2 (.inl hst))
  next hst => exact start_enters_roundSent h ((busy_eq_false_iff s).2 (.inr (.inl hst)))
  next hst => exact start_enters_roundSent h ((busy_eq_false_iff s).2 (.inr (.inr hst)))
  next hst =>
    obtain ⟨d, hd, hcase⟩ := recvIsDecodeThenTransition.2 s hst
    refine ⟨d, hd, hcase.imp (fun ⟨r, hr, hrecv⟩ => ⟨r, hr, ?_⟩) fun ⟨e, he, herr, hrecv⟩ => ⟨e, he, herr, ?_⟩⟩
    · cases hrecv.symm.trans h; rfl
    · cases hrecv.symm.trans h; exact ⟨rfl, rfl⟩
  next hst =>
    rcases isochk_cases h with ⟨hne, -⟩ | ⟨-, ⟨hlen, hcode, rfl⟩ | ⟨hpass, rfl⟩⟩
    · exact absurd hst hne
    · exact (if_pos ⟨hlen, hcode⟩).mpr ⟨rfl, rfl⟩
    · exact (if_neg hpass).mpr rfl
  next hst =>
    rcases extract_cases h with ⟨hne, -⟩ | ⟨-, ⟨hshort, rfl⟩ | ⟨hlong, hmax, rfl⟩ | ⟨hlong, v, c, recs, -, hmax, rfl⟩⟩
    · exact absurd hst hne
    · exact (if_pos hshort).mpr ⟨rfl, rfl⟩
    · exact (if_neg hlong).mpr ((if_pos hmax).mpr ⟨rfl, rfl⟩)
    · exact (if_neg hlong).mpr ((if_neg (by omega)).mpr rfl)
  next hst =>
    rcases collide_cases h with ⟨hne, -⟩ | ⟨-, new, -, -, -, rfl⟩
    · exact absurd hst hne
    · rfl
  next hst =>
    have hlen : s.cur.len.toNat = 60 ↔ s.cur.len = 60 := BitVec.toNat_inj (y := 60)
    have hcase := fatalchk_cases h
    rw [hlen] at hcase
    rcases hcase with ⟨hne, -⟩ | ⟨-, ⟨hcoll, h60, rfl⟩ | ⟨hpass, hstk, rfl⟩ | ⟨hpass, hstk, rfl⟩⟩
    · exact absurd hst hne
    · exact (if_pos ⟨hcoll, h60⟩).mpr ⟨rfl, rfl⟩
    · exact (if_neg hpass).mpr ((if_neg (not_not_intro hstk)).mpr rfl)
    · exact (if_neg hpass).mpr ((if_pos hstk).mpr rfl)
  next hst =>
    rcases next_cases h with ⟨hne, -⟩ | ⟨-, ⟨hc, rfl⟩ | ⟨hc, rest, r, -, -, rfl⟩⟩
    · exact absurd hst hne
    · exact (if_pos hc).mpr ⟨rfl, rfl⟩
    · exact (if_neg (Bool.eq_false_iff.1 hc)).mpr rfl
  next i _ _ hidle hdone hfatal hrecv hisochk hextract hcollide hfatalchk hnext =>
    cases i with
    | start =>
      rcases start_cases h with ⟨-, rfl⟩ | ⟨hb, -⟩
      · rfl
      · rcases (busy_eq_false_iff s).1 hb with hst | hst | hst
        exacts [(hidle rfl hst).elim, (hdone rfl hst).elim, (hfatal rfl hst).elim]
    | recv => rcases recv_cases h with ⟨-, rfl⟩ | ⟨hst, -⟩; exacts [rfl, (hrecv rfl hst).elim]
    | isochk => rcases isochk_cases h with ⟨-, rfl⟩ | ⟨hst, -⟩; exacts [rfl, (hisochk rfl hst).elim]
    | extract => rcases extract_cases h with ⟨-, rfl⟩ | ⟨hst, -⟩; exacts [rfl, (hextract rfl hst).elim]
    | collide => rcases collide_cases h with ⟨-, rfl⟩ | ⟨hst, -⟩; exacts [rfl, (hcollide rfl hst).elim]
    | fatalchk => rcases fatalchk_cases h with ⟨-, rfl⟩ | ⟨hst, -⟩; exacts [rfl, (hfatalchk rfl hst).elim]
    | next => rcases next_cases h with ⟨-, rfl⟩ | ⟨hst, -⟩; exacts [rfl, (hnext rfl hst).elim]
    | nop | cancel | sendreq | csum | verify | fields | encode | decode | clear | push | pop | buildreq | derive |
      tagparse | isomap | vscan | cscan => exact (accessTableFrames _ s t h).1 nofun nofun nofun nofun nofun nofun nofun

/-! ### The order of exploration (R169) -/

/-- After the pushes of a round that goes on, the mask pushed last is made the current one and sent. -/
theorem runSteps_explore_last {s : State} {rest : List MaskReg} {r : MaskReg} (hin : s.inputs = [])
    (hst : s.st = .pushMasks) (hcancel : s.cancelReq = false) (hlen : s.cur.len ≠ 60) (hstk : s.stk = rest ++ [r])
    (hr : r.ok = true) :
    ∃ t, runSteps 2 s = .next t ∧ t.st = .roundSent ∧ t.cur = r ∧ t.stk = rest ∧
      t.txFrames = s.txFrames ++ [requestOf s.params (maskOfReg r)] := by
  have hfatalchk : step s = .next { s with st := .nextRound, reply := .none } :=
    (step_micro hin (by rw [hst]; rfl)).trans
      (exec_fatalchk_nextRound hst (fun hc => hlen hc.2) (by simp [hstk]))
  have hpop := exec_next_pops (s := { s with st := .nextRound, reply := .none }) rfl hcancel hstk hr
  have hnext := (step_micro (s := { s with st := .nextRound, reply := .none }) hin rfl).trans hpop
  exact ⟨_, (runSteps_succ hfatalchk 1).trans (runSteps_succ hnext 0), rfl, rfl, rfl, List.filterMap_append⟩

/-- Settles O60: COLLIDE pushes the mask of the last slot last. -/
theorem lastPushedExploredFirst : Obligations.LastPushedExploredFirst := by
  intro s slots last h hin hst hcancel hlen hslots
  have hw := ((ok_iff s.cur).1 (h.ok.current (by rw [hst]; nofun))).1
  have hlast : last ≤ 15 := cscan_lt s.coll (by simp [hslots])
  obtain ⟨hok, hmask⟩ := maskToReg_ok _ (childMask_wellFormed s.curMask last hw hlen.le hlast)
  have hstk : s.stk ++ s.newMasks = (s.stk ++ slots.map fun slot => maskToReg (childMask s.curMask slot)) ++
      [maskToReg (childMask s.curMask last)] := by
    rw [State.newMasks, hslots, List.map_append, List.map_singleton, List.append_assoc]
  have hcollide := (step_micro hin (by rw [hst]; rfl)).trans (h.collide_completes hst)
  have hshort : s.cur.len ≠ 60 := fun e => absurd hlen (by rw [e]; decide)
  obtain ⟨t, hrun, hsent, hcur, hrest, htx⟩ := runSteps_explore_last
    (s := { s with stk := s.stk ++ s.newMasks, st := .pushMasks, reply := .none }) hin rfl hcancel hshort hstk hok
  exact ⟨t, (runSteps_succ hcollide 2).trans hrun, hsent, hcur, hrest, hmask ▸ htx⟩

end Sys2Proof.Machine

/-! PROOF. Every session ends (42_inventory_engine.md R170): the micro-operations a session can still need are counted by
the masks it can still explore, and every step takes one off or consumes an input. -/

namespace Sys2Proof.Machine

/-! ### A step of a session completes -/

theorem exec_recv_next (s : State) : ∃ t, exec .recv s = .next t := by
  simp only [exec, execRecv]
  split_ifs
  · rcases receiveFrame s with ⟨e | r, d⟩ <;> exact ⟨_, rfl⟩
  · exact ⟨_, rfl⟩

theorem exec_isochk_next (s : State) : ∃ t, exec .isochk s = .next t := by
  simp only [exec, execIsochk]
  split_ifs <;> exact ⟨_, rfl⟩

theorem exec_extract_next (s : State) : ∃ t, exec .extract s = .next t := by
  simp only [exec, execExtract]
  split_ifs <;> exact ⟨_, rfl⟩

theorem exec_fatalchk_next (s : State) : ∃ t, exec .fatalchk s = .next t := by
  simp only [exec, execFatalchk]
  split_ifs <;> exact ⟨_, rfl⟩

/-- START is refused or sends the request of the empty mask, which always has one. -/
theorem exec_start_next (s : State) : ∃ t, exec .start s = .next t := by
  cases hb : s.busy with
  | true => exact ⟨_, exec_start_busy hb⟩
  | false => exact ⟨_, exec_start hb⟩

/-- In a session NEXT finds a well-formed mask on the stack. -/
theorem State.SessionOk.next_completes {s : State} (h : s.SessionOk) (hst : s.st = .nextRound) :
    ∃ t, exec .next s = .next t := by
  obtain ⟨-, hne, -⟩ := h.treeNext hst
  obtain ⟨rest, r, hstk⟩ := s.stk.eq_nil_or_concat'.resolve_left hne
  cases hc : s.cancelReq with
  | true => exact ⟨_, exec_next_cancelled hst hc⟩
  | false => exact ⟨_, exec_next_pops hst hc hstk (h.ok.stack r (by simp [hstk]))⟩

/-- In a session the micro-operation of ST completes (60_exceptions.md R186). -/
theorem State.SessionOk.micro_completes {s : State} (h : s.SessionOk) {i : Instr} (hi : microOf s.st = some i) :
    ∃ t, exec i s = .next t := by
  cases hst : s.st <;> rw [hst] at hi <;> cases hi
  case roundSent => exact exec_recv_next s
  case roundReceived => exact exec_isochk_next s
  case extractTags => exact exec_extract_next s
  case processCollisions => exact ⟨_, h.collide_completes hst⟩
  case pushMasks => exact exec_fatalchk_next s
  case nextRound => exact h.next_completes hst

/-- The host's commands complete in any state. -/
theorem exec_host_next {i : Instr} (hi : i = .nop ∨ i = .start ∨ i = .cancel) (s : State) : ∃ t, exec i s = .next t := by
  rcases hi with rfl | rfl | rfl
  · exact ⟨_, rfl⟩
  · exact exec_start_next s
  · exact ⟨_, rfl⟩

/-- The inputs still to come are from outside like those before. -/
theorem State.SessionOk.consume {s : State} (h : s.SessionOk) : s.consume.SessionOk :=
  { h with ok := { h.ok with }, outside := fun x hx => h.outside x (List.mem_of_mem_tail hx) }

/-! ### Counting the micro-operations left -/

/-- The micro-operations needed for a pending mask that can grow d more times and for all masks derived from it: NEXT and
the five of its round, and 16 masks one nibble longer. A mask that cannot grow is never sent (R159). -/
def subtreeSteps : Nat → Nat
  | 0 => 0
  | d + 1 => 6 + 16 * subtreeSteps d

/-- The micro-operations for a list of pending masks, each of which can grow to level 16. -/
def pendingSteps (l : List MaskReg) : Nat := (l.map fun r => subtreeSteps (16 - r.level)).sum

/-- The micro-operations from an ST to the end of its round, the NEXT that follows it included. -/
def St.roundSteps : St → Nat
  | .roundSent => 6
  | .roundReceived => 5
  | .extractTags => 4
  | .processCollisions => 3
  | .pushMasks => 2
  | .nextRound => 1
  | .idle => 0
  | .done => 0
  | .fatal => 0

/-- A bound on the micro-operations until Done or Fatal; in Idle, on those of a session that is still to be started. -/
def State.stepsLeft (s : State) : Nat :=
  match s.st with
  | .idle => subtreeSteps 16
  | .roundSent | .roundReceived | .extractTags | .processCollisions =>
    pendingSteps s.stk + 16 * subtreeSteps (15 - s.cur.level) + s.st.roundSteps
  | .pushMasks | .nextRound => pendingSteps s.stk + s.st.roundSteps
  | .done | .fatal => 0

theorem stepsLeft_fatal {s : State} (h : s.st = .fatal) : s.stepsLeft = 0 := by
  rw [State.stepsLeft, h]

theorem stepsLeft_beforePushes {s : State} (h : s.st ∈ [.roundSent, .roundReceived, .extractTags, .processCollisions]) :
    s.stepsLeft = pendingSteps s.stk + 16 * subtreeSteps (15 - s.cur.level) + s.st.roundSteps := by
  simp only [List.mem_cons, List.not_mem_nil, or_false] at h
  rcases h with h | h | h | h <;> simp only [State.stepsLeft, h]

theorem stepsLeft_afterPushes {s : State} (h : s.st ∈ [.pushMasks, .nextRound]) :
    s.stepsLeft = pendingSteps s.stk + s.st.roundSteps := by
  simp only [List.mem_cons, List.not_mem_nil, or_false] at h
  rcases h with h | h <;> simp only [State.stepsLeft, h]

/-- While a session runs a micro-operation is left. -/
theorem stepsLeft_pos {s : State} (h : s.busy = true) : 0 < s.stepsLeft := by
  rw [State.busy] at h
  cases hst : s.st
  case idle | done | fatal => rw [hst] at h; cases h
  case pushMasks | nextRound =>
    rw [stepsLeft_afterPushes (by simp [hst]), hst]
    exact Nat.succ_pos _
  all_goals
    rw [stepsLeft_beforePushes (by simp [hst]), hst]
    exact Nat.succ_pos _

theorem subtreeSteps_mono : Monotone subtreeSteps := by
  refine monotone_nat_of_le_succ fun d => ?_
  rw [subtreeSteps]
  omega

/-- A mask of at most 60 bits is sent, and 16 masks derived from it. -/
theorem subtreeSteps_of_level_le {k : Nat} (h : k ≤ 15) : subtreeSteps (16 - k) = 6 + 16 * subtreeSteps (15 - k) := by
  rw [Nat.succ_sub h, subtreeSteps]

theorem pendingSteps_append (l l' : List MaskReg) : pendingSteps (l ++ l') = pendingSteps l + pendingSteps l' := by
  rw [pendingSteps, List.map_append, List.sum_append, pendingSteps, pendingSteps]

theorem pendingSteps_singleton (r : MaskReg) : pendingSteps [r] = subtreeSteps (16 - r.level) :=
  List.sum_singleton

/-- Masks none of which needs more than c micro-operations. -/
theorem pendingSteps_le {l : List MaskReg} {c : Nat} (h : ∀ r ∈ l, subtreeSteps (16 - r.level) ≤ c) :
    pendingSteps l ≤ l.length * c := by
  have hsum := List.sum_le_card_nsmul (l.map fun r => subtreeSteps (16 - r.level)) c (by simpa using h)
  rwa [List.length_map, smul_eq_mul] at hsum

/-- The pushes of COLLIDE: at most 16 masks that can grow once less than CUR. -/
theorem newMasks_steps_le {s : State} (hcur : s.cur.ok = true) (hlevel : s.cur.level ≤ 15) :
    pendingSteps s.newMasks ≤ 16 * subtreeSteps (15 - s.cur.level) := by
  have hsteps : pendingSteps s.newMasks ≤ s.newMasks.length * subtreeSteps (15 - s.cur.level) := by
    refine pendingSteps_le fun r hr => ?_
    rw [newMasks_level hcur hlevel hr, Nat.succ_sub_succ]
  exact hsteps.trans (Nat.mul_le_mul_right _ (newMasks_length_le s))

/-- One number for all states of a session: 241 pending masks and the 16 that CUR can still give. -/
theorem State.SessionOk.stepsLeft_le {s : State} (h : s.SessionOk) : s.stepsLeft ≤ 257 * subtreeSteps 16 + 6 := by
  have hpending : pendingSteps s.stk ≤ 241 * subtreeSteps 16 :=
    (pendingSteps_le fun _ _ => subtreeSteps_mono (Nat.sub_le 16 _)).trans (Nat.mul_le_mul_right _ h.length_le)
  have hcur : subtreeSteps (15 - s.cur.level) ≤ subtreeSteps 16 := subtreeSteps_mono (by omega)
  cases hst : s.st <;> simp only [State.stepsLeft, hst, St.roundSteps] <;> omega

/-! ### Each step comes closer to the end -/

/-- Raising an error ends a running session. -/
theorem stepsLeft_lt_of_fatal {s t : State} {st : St} (hst : s.st = st) (hb : st.busy = true) (ht : t.st = .fatal) :
    t.stepsLeft < s.stepsLeft := by
  rw [stepsLeft_fatal ht]
  exact stepsLeft_pos (by rwa [State.busy, hst])

/-- Within a round, before its pushes, each micro-operation that goes on takes off one. -/
theorem stepsLeft_lt_of_move {s t : State}
    (hs : s.st ∈ [.roundSent, .roundReceived, .extractTags, .processCollisions])
    (ht : t.st ∈ [.roundSent, .roundReceived, .extractTags, .processCollisions])
    (hlt : t.st.roundSteps < s.st.roundSteps) (hcur : t.cur = s.cur) (hstk : t.stk = s.stk) :
    t.stepsLeft < s.stepsLeft := by
  rw [stepsLeft_beforePushes hs, stepsLeft_beforePushes ht, hcur, hstk]
  exact Nat.add_lt_add_left hlt _

theorem recv_stepsLeft_lt {s t : State} (hst : s.st = .roundSent) (hx : exec .recv s = .next t) :
    t.st ≠ .idle ∧ t.stepsLeft < s.stepsLeft := by
  rcases recv_cases hx with ⟨hne, -⟩ | ⟨-, ⟨f, rest, limits, -, -, -, rfl⟩ | ⟨e, rx, limits, reads, -, -, -, -, rfl⟩⟩
  · exact absurd hst hne
  · exact ⟨nofun, stepsLeft_lt_of_move (by simp [hst]) (by simp) (by simp [hst, St.roundSteps]) rfl rfl⟩
  · exact ⟨nofun, stepsLeft_lt_of_fatal hst rfl rfl⟩

theorem isochk_stepsLeft_lt {s t : State} (hst : s.st = .roundReceived) (hx : exec .isochk s = .next t) :
    t.st ≠ .idle ∧ t.stepsLeft < s.stepsLeft := by
  rcases isochk_cases hx with ⟨hne, -⟩ | ⟨-, ⟨-, -, rfl⟩ | ⟨-, rfl⟩⟩
  · exact absurd hst hne
  · exact ⟨nofun, stepsLeft_lt_of_fatal hst rfl rfl⟩
  · exact ⟨nofun, stepsLeft_lt_of_move (by simp [hst]) (by simp) (by simp [hst, St.roundSteps]) rfl rfl⟩

theorem extract_stepsLeft_lt {s t : State} (hst : s.st = .extractTags) (hx : exec .extract s = .next t) :
    t.st ≠ .idle ∧ t.stepsLeft < s.stepsLeft := by
  rcases extract_cases hx with ⟨hne, -⟩ | ⟨-, ⟨-, rfl⟩ | ⟨-, -, rfl⟩ | ⟨-, v, c, recs, -, -, rfl⟩⟩
  · exact absurd hst hne
  · exact ⟨nofun, stepsLeft_lt_of_fatal hst rfl rfl⟩
  · exact ⟨nofun, stepsLeft_lt_of_fatal hst rfl rfl⟩
  · exact ⟨nofun, stepsLeft_lt_of_move (by simp [hst]) (by simp) (by simp [hst, St.roundSteps]) rfl rfl⟩

/-- COLLIDE turns what CUR can still give into pending masks. -/
theorem State.SessionOk.collide_stepsLeft_lt {s t : State} (h : s.SessionOk) (hst : s.st = .processCollisions)
    (hx : exec .collide s = .next t) : t.st ≠ .idle ∧ t.stepsLeft < s.stepsLeft := by
  cases (h.collide_completes hst).symm.trans hx
  obtain ⟨hlevel, -⟩ := h.treeBefore (by simp [hst])
  have hnew := newMasks_steps_le (h.ok.current (by rw [hst]; nofun)) hlevel
  refine ⟨nofun, ?_⟩
  rw [stepsLeft_afterPushes (by simp), stepsLeft_beforePushes (by simp [hst]), hst]
  simp only [pendingSteps_append, St.roundSteps]
  omega

theorem fatalchk_stepsLeft_lt {s t : State} (hst : s.st = .pushMasks) (hx : exec .fatalchk s = .next t) :
    t.st ≠ .idle ∧ t.stepsLeft < s.stepsLeft := by
  rcases fatalchk_cases hx with ⟨hne, -⟩ | ⟨-, ⟨-, -, rfl⟩ | ⟨-, -, rfl⟩ | ⟨-, -, rfl⟩⟩
  · exact absurd hst hne
  · exact ⟨nofun, stepsLeft_lt_of_fatal hst rfl rfl⟩
  · exact ⟨nofun, stepsLeft_pos (by rw [State.busy, hst]; rfl)⟩
  · refine ⟨nofun, ?_⟩
    rw [stepsLeft_afterPushes (by simp), stepsLeft_afterPushes (by simp [hst]), hst]
    exact Nat.lt_succ_self _

/-- NEXT turns a pending mask, which has at most 60 bits, into its round and what it can still give. -/
theorem State.SessionOk.next_stepsLeft_lt {s t : State} (h : s.SessionOk) (hst : s.st = .nextRound)
    (hx : exec .next s = .next t) : t.st ≠ .idle ∧ t.stepsLeft < s.stepsLeft := by
  rcases next_cases hx with ⟨hne, -⟩ | ⟨-, ⟨-, rfl⟩ | ⟨-, rest, r, hstk, -, rfl⟩⟩
  · exact absurd hst hne
  · exact ⟨nofun, stepsLeft_lt_of_fatal hst rfl rfl⟩
  · obtain ⟨-, -, h15⟩ := h.treeNext hst
    have hr : r ∈ s.stk := by simp [hstk]
    have hreg := ((ok_iff r).1 (h.ok.stack r hr)).2
    refine ⟨nofun, ?_⟩
    rw [stepsLeft_beforePushes (by simp), stepsLeft_afterPushes (by simp [hst]), hst]
    simp only [hstk, hreg, pendingSteps_append, pendingSteps_singleton, St.roundSteps, subtreeSteps_of_level_le (h15 r hr)]
    omega

/-- A micro-operation of a session does not lead to Idle and leaves fewer micro-operations. -/
theorem State.SessionOk.micro_stepsLeft_lt {s t : State} (h : s.SessionOk) {i : Instr} (hi : microOf s.st = some i)
    (hx : exec i s = .next t) : t.st ≠ .idle ∧ t.stepsLeft < s.stepsLeft := by
  cases hst : s.st <;> rw [hst] at hi <;> cases hi
  case roundSent => exact recv_stepsLeft_lt hst hx
  case roundReceived => exact isochk_stepsLeft_lt hst hx
  case extractTags => exact extract_stepsLeft_lt hst hx
  case processCollisions => exact h.collide_stepsLeft_lt hst hx
  case pushMasks => exact fatalchk_stepsLeft_lt hst hx
  case nextRound => exact h.next_stepsLeft_lt hst hx

/-- A host command before Done and Fatal leaves no more micro-operations, and leads to Idle from Idle only. -/
theorem stepsLeft_host_le {s t : State} (hd : s.st ≠ .done) (hf : s.st ≠ .fatal) {i : Instr}
    (hi : i = .nop ∨ i = .start ∨ i = .cancel) (hx : exec i s = .next t) :
    (t.st = .idle → s.st = .idle) ∧ t.stepsLeft ≤ s.stepsLeft := by
  rcases hi with rfl | rfl | rfl
  · cases hx; exact ⟨id, le_rfl⟩
  · rcases start_cases hx with ⟨-, rfl⟩ | ⟨hb, rfl⟩
    · exact ⟨id, le_rfl⟩
    · have hidle : s.st = .idle := ((busy_eq_false_iff s).1 hb).resolve_right (by tauto)
      refine ⟨nofun, ?_⟩
      have hempty : MaskReg.empty.level = 0 := rfl
      rw [stepsLeft_beforePushes (by simp), State.stepsLeft, hidle]
      simp only [pendingSteps, hempty, List.map_nil, List.sum_nil, St.roundSteps, subtreeSteps]
      omega
  · cases hx; exact ⟨id, le_rfl⟩

/-- A step that performs the micro-operation of ST. -/
theorem State.SessionOk.step_micro {s : State} (h : s.SessionOk) {i : Instr} (hi : microOf s.st = some i)
    (e : step s = exec i s.consume) :
    ∃ t, step s = .next t ∧ t.inputs = s.inputs.tail ∧ t.st ≠ .idle ∧ t.stepsLeft < s.stepsLeft := by
  obtain ⟨t, hx⟩ := h.consume.micro_completes hi
  obtain ⟨-, -, -, -, -, -, -, -, -, -, -, hin⟩ := accessTableFrames i s.consume t hx
  exact ⟨t, e.trans hx, hin, h.consume.micro_stepsLeft_lt hi hx⟩

/-- In every ST but Idle, Done and Fatal there is a micro-operation. -/
theorem exists_microOf {st : St} (hi : st ≠ .idle) (hd : st ≠ .done) (hf : st ≠ .fatal) : ∃ i, microOf st = some i := by
  cases st
  case idle => exact absurd rfl hi
  case done => exact absurd rfl hd
  case fatal => exact absurd rfl hf
  all_goals exact ⟨_, rfl⟩

/-- A step of a session that has not ended and does not rest in Idle: the reset input, or closer to the end. -/
theorem State.SessionOk.step_progress {s : State} (h : s.SessionOk) (hd : s.st ≠ .done) (hf : s.st ≠ .fatal)
    (hidle : s.st = .idle → s.inputs ≠ []) :
    ∃ t, step s = .next t ∧ t.inputs = s.inputs.tail ∧
      (t.st = .idle ∧ .hwReset ∈ s.inputs ∨
        (t.st = .idle → s.st = .idle) ∧ t.stepsLeft + t.inputs.length < s.stepsLeft + s.inputs.length) := by
  have hmicro {i : Instr} (hi : microOf s.st = some i) (e : step s = exec i s.consume) :
      ∃ t, step s = .next t ∧ t.inputs = s.inputs.tail ∧ (t.st = .idle ∧ .hwReset ∈ s.inputs ∨
        (t.st = .idle → s.st = .idle) ∧ t.stepsLeft + t.inputs.length < s.stepsLeft + s.inputs.length) := by
    obtain ⟨t, hstep, hin, hne, hlt⟩ := h.step_micro hi e
    have hlen : t.inputs.length ≤ s.inputs.length := by simp [hin]
    exact ⟨t, hstep, hin, .inr ⟨fun e => absurd e hne, Nat.add_lt_add_of_lt_of_le hlt hlen⟩⟩
  by_cases hnil : s.inputs = []
  · obtain ⟨i, hi⟩ := exists_microOf (fun e => hidle e hnil) hd hf
    exact hmicro hi (step_of_microOf (turn_sequencer (.inl hnil)) hi)
  have htail : s.inputs.tail.length < s.inputs.length := by
    rw [List.length_tail]
    exact Nat.sub_lt (List.length_pos_iff.2 hnil) Nat.one_pos
  rcases step_outside h.outside with ⟨⟨rest, hr⟩, e⟩ | ⟨-, e⟩ | ⟨i, hi, e⟩ | e
  · exact ⟨_, e, rfl, .inl ⟨rfl, by simp [hr]⟩⟩
  · exact ⟨_, e, rfl, .inr ⟨id, Nat.add_lt_add_left htail _⟩⟩
  · by_cases hm : microOf s.st = some i
    · exact hmicro hm e
    · have hhost : i = .nop ∨ i = .start ∨ i = .cancel := by tauto
      obtain ⟨t, hx⟩ := exec_host_next hhost s.consume
      obtain ⟨-, -, -, -, -, -, -, -, -, -, -, hin⟩ := accessTableFrames i s.consume t hx
      obtain ⟨hst, hle⟩ := stepsLeft_host_le (s := s.consume) hd hf hhost hx
      exact ⟨t, e.trans hx, hin, .inr ⟨hst, by rw [hin]; exact Nat.add_lt_add_of_le_of_lt hle htail⟩⟩
  · exact ⟨_, e, rfl, .inr ⟨id, Nat.add_lt_add_left htail _⟩⟩

/-! ### The end -/

/-- Where a session that began in s may end: in Done or Fatal, at rest in Idle, or by a reset. -/
def State.EndsIn (s t : State) : Prop :=
  t.st = .done ∨ t.st = .fatal ∨ t.st = .idle ∧ (s.st = .idle ∧ t.inputs = [] ∨ Input.hwReset ∈ s.inputs)

/-- An end of the session from the next state is one from this state: no inputs came in, and Idle is entered by reset. -/
theorem State.EndsIn.of_step {s u t : State} (h : u.EndsIn t) (hin : u.inputs = s.inputs.tail)
    (hidle : u.st = .idle → s.st = .idle) : s.EndsIn t := by
  rcases h with h | h | ⟨h, ⟨hu, ht⟩ | hr⟩
  · exact .inl h
  · exact .inr (.inl h)
  · exact .inr (.inr ⟨h, .inl ⟨hidle hu, ht⟩⟩)
  · exact .inr (.inr ⟨h, .inr (List.mem_of_mem_tail (hin ▸ hr))⟩)

/-- A session ends within the micro-operations and the inputs that are left. -/
theorem State.SessionOk.ends {s : State} (h : s.SessionOk) :
    ∃ n t, n ≤ s.stepsLeft + s.inputs.length ∧ runSteps n s = .next t ∧ s.EndsIn t := by
  induction hm : s.stepsLeft + s.inputs.length using Nat.strong_induction_on generalizing s with
  | h m ih =>
    by_cases hend : s.EndsIn s
    · exact ⟨0, s, Nat.zero_le _, rfl, hend⟩
    have hd : s.st ≠ .done := fun e => hend (.inl e)
    have hf : s.st ≠ .fatal := fun e => hend (.inr (.inl e))
    obtain ⟨u, hstep, hin, ⟨hu, hr⟩ | ⟨hidle, hlt⟩⟩ :=
      h.step_progress hd hf fun hst hnil => hend (.inr (.inr ⟨hst, .inl ⟨hst, hnil⟩⟩))
    · have hpos := List.length_pos_of_mem hr
      exact ⟨1, u, by omega, runSteps_succ hstep 0, .inr (.inr ⟨hu, .inr hr⟩)⟩
    · obtain ⟨n, t, hn, hrun, ht⟩ := ih _ (hm ▸ hlt) (everyStepKeepsSession s u h hstep) rfl
      exact ⟨n + 1, t, by omega, (runSteps_succ hstep n).trans hrun, ht.of_step hin hidle⟩

/-- A well-formed mask of level k has 4k bits, so none of a running session's is longer than the tree is deep. -/
theorem State.SessionOk.lengths {s : State} (h : s.SessionOk) (hb : s.busy = true) :
    s.cur.len.toNat ≤ 60 ∧ ∀ r ∈ s.stk, r.len.toNat ≤ 64 := by
  have hlevel : s.cur.level ≤ 15 := by
    rw [State.busy] at hb
    cases hst : s.st
    case idle | done | fatal => rw [hst] at hb; cases hb
    case pushMasks => exact (h.treeAfter hst).1
    case nextRound => exact (h.treeNext hst).1.1
    all_goals exact (h.treeBefore (by simp [hst])).1
  have hcur := len_eq_level (h.ok.current (St.ne_of_busy hb).1)
  refine ⟨by omega, fun r hr => ?_⟩
  have hw := ((ok_iff r).1 (h.ok.stack r hr)).1
  exact ((shaped_iff _).1 ((wellFormed_iff _).1 hw).1).2.1

/-- Settles O57: the bound is that of the mask tree, and each input costs one step more. -/
theorem sessionTerminates : Obligations.SessionTerminates := by
  refine ⟨⟨257 * subtreeSteps 16 + 6, fun s h => ?_⟩, fun s h hb => h.lengths hb⟩
  obtain ⟨n, t, hn, hrun, hend⟩ := h.ends
  exact ⟨n, t, hn.trans (Nat.add_le_add_right h.stepsLeft_le _), hrun, hend⟩

end Sys2Proof.Machine

/-! PROOF. The exceptions (60_exceptions.md): that no step of a session stops (R186), the three errors of a reception in
full (R182, R183, R187), that errors do not nest (R195), and where the model stops by name. -/

namespace Sys2Proof.Machine

/-! ### No step of a session stops (R186) -/

/-- In a session the host's commands and the micro-operation of ST complete. -/
theorem State.SessionOk.exec_completes {s : State} (h : s.SessionOk) {i : Instr}
    (hi : i = .nop ∨ i = .start ∨ i = .cancel ∨ microOf s.st = some i) : ∃ t, exec i s = .next t := by
  rcases hi with hi | hi | hi | hi
  · exact exec_host_next (.inl hi) s
  · exact exec_host_next (.inr (.inl hi)) s
  · exact exec_host_next (.inr (.inr hi)) s
  · exact h.micro_completes hi

/-- Settles O55: a step from outside is a reset, a wait, a refusal of HCMD = 3, or an operation that completes. -/
theorem sessionNeverStops : Obligations.SessionNeverStops := by
  intro s h
  rcases step_outside h.outside with ⟨-, e⟩ | ⟨-, e⟩ | ⟨i, hi, e⟩ | e
  · exact ⟨_, e⟩
  · exact ⟨_, e⟩
  · obtain ⟨t, hx⟩ := h.consume.exec_completes hi
    exact ⟨t, e.trans hx⟩
  · exact ⟨_, e⟩

/-! ### The errors of a reception (R182, R183, R187) -/

/-- RECV raises the error of a failed reception, which leaves the receive registers unspecified (10_state.md R25). -/
theorem exec_recv_raises {s u : State} {e : Err} (hst : s.st = .roundSent) (h : receiveFrame s = (.error e, u.forgetRx)) :
    ∃ b len f n, exec .recv s = .next ((u.setRx b len f n).raise e) :=
  ⟨freeBuf u.draws, Config.freeByte u.draws 255, freeFields u.draws, u.draws + 1, exec_recv_of_error hst h⟩

/-- Fewer than two bytes of the header arrive. -/
theorem receiveFrame_short_header {s : State} (h : arrives 2 s.rxLimits s.rx < 2) :
    receiveFrame s = (.error .transportTimeout, State.forgetRx { s with
      rx := s.rx.drop (arrives 2 s.rxLimits s.rx), rxLimits := s.rxLimits.tail
      link := s.link ++ [.read 2 (s.rx.take (arrives 2 s.rxLimits s.rx))] }) := by
  rcases receiveFrame_cases s with ⟨-, hr⟩ | ⟨_, _, _, -, h2, -⟩
  · rw [hr, memRead_eq]
  · omega

/-- The header read, where its two bytes are there and the read is not cut short. -/
theorem memRead_header {s : State} {sof len : Byte} {body : List Byte} (hrx : s.rx = sof :: len :: body)
    (hcut : NotCut 2 s.rxLimits) :
    memRead 2 s = ([sof, len], { s with
      rx := body, rxLimits := s.rxLimits.tail, link := s.link ++ [.read 2 [sof, len]] }) := by
  have h2 : arrives 2 s.rxLimits s.rx = 2 := arrives_full _ _ _ hcut (by simp [hrx])
  rw [memRead_eq, h2, hrx]
  rfl

/-- A length byte below 8 ends the reception after the header. -/
theorem receiveFrame_malformed {s : State} {sof len : Byte} {body : List Byte} (hrx : s.rx = sof :: len :: body)
    (hcut : NotCut 2 s.rxLimits) (hlen : len.toNat < 8) :
    receiveFrame s = (.error .malformedFrame, State.forgetRx { s with
      rx := body, rxLimits := s.rxLimits.tail, link := s.link ++ [.read 2 [sof, len]] }) := by
  have hshort : ([sof, len].getD 1 0).toNat < Config.minFrame := hlen
  simp only [receiveFrame, memRead_header hrx hcut, if_pos hshort]
  rfl

/-- Fewer bytes of the body arrive than the length byte announces. -/
theorem receiveFrame_short_body {s : State} {sof len : Byte} {body : List Byte} (hrx : s.rx = sof :: len :: body)
    (hcut : NotCut 2 s.rxLimits) (hlen : 8 ≤ len.toNat)
    (h : arrives (len.toNat - 2) s.rxLimits.tail body < len.toNat - 2) :
    receiveFrame s = (.error .transportTimeout, State.forgetRx { s with
      rx := body.drop (arrives (len.toNat - 2) s.rxLimits.tail body), rxLimits := s.rxLimits.tail.tail
      link := s.link ++ [.read 2 [sof, len],
        .read (len.toNat - 2) (body.take (arrives (len.toNat - 2) s.rxLimits.tail body))] }) := by
  rcases receiveFrame_cases s with ⟨h2, -⟩ | ⟨sof', len', body', hrx', -, hcase⟩
  · have hfull := arrives_full 2 s.rxLimits s.rx hcut (by simp [hrx])
    omega
  · cases hrx.symm.trans hrx'
    rcases hcase with ⟨hlt, -⟩ | ⟨-, ⟨-, hr⟩ | ⟨hfull, -⟩⟩
    · omega
    · rw [hr, memRead_header hrx hcut, memRead_eq, List.append_assoc]
      rfl
    · omega

/-- Settles O15: the header read that is cut short, and the body read. -/
theorem transportTimeoutInFull : Obligations.TransportTimeoutInFull :=
  fun _ hst => ⟨fun h => exec_recv_raises hst (receiveFrame_short_header h),
    fun _ _ _ hrx hcut hlen h => exec_recv_raises hst (receiveFrame_short_body hrx hcut hlen h)⟩

/-- Settles O17: the reception ends after the header. -/
theorem malformedFrameInFull : Obligations.MalformedFrameInFull :=
  fun _ _ _ _ hst hrx hcut hlen => exec_recv_raises hst (receiveFrame_malformed hrx hcut hlen)

/-- By the transition table (R167) no operation but RECV in RoundSent enters Fatal with ChecksumMismatch. -/
theorem eq_recv_of_checksumMismatch {i : Instr} {s t : State} (h : exec i s = .next t) (hs : s.st ≠ .fatal)
    (ht : t.st = .fatal) (he : t.err = .checksumMismatch) : i = .recv ∧ s.st = .roundSent := by
  have hrow := transitionRelation.1 i s t h
  split at hrow
  -- the row of RECV in RoundSent; the other rows lead elsewhere, raise another error or leave ST
  case h_4 hst => exact ⟨rfl, hst⟩
  all_goals simp [ht, he, hs.symm] at hrow

/-- RECV enters Fatal from RoundSent with the error of the reception. -/
theorem receiveFrame_of_recv_fatal {s t : State} (hst : s.st = .roundSent) (h : exec .recv s = .next t)
    (ht : t.st = .fatal) : ∃ d, receiveFrame s = (.error t.err, d) := by
  rcases execRecv_cases hst h with ⟨r, d, -, rfl⟩ | ⟨e, d, hr, rfl⟩
  · cases ht
  · exact ⟨d, hr⟩

/-- DECODE reports the error of the reception. -/
theorem receiveFrame_of_decode_raised {s t : State} {e : Err} (h : exec .decode s = .next t) (ht : t.reply = .raised e) :
    ∃ d, receiveFrame s = (.error e, d) := by
  rcases hr : receiveFrame s with ⟨e' | r, d⟩
  · cases (exec_decode_of_error hr).symm.trans h
    cases ht
    exact ⟨d, rfl⟩
  · cases (exec_decode_of_ok hr).symm.trans h
    cases ht

/-- Settles O16: VERIFY rejects a whole frame whose pair is not right, and a reception fails with this error for no other
stream. -/
theorem checksumMismatchInFull : Obligations.ChecksumMismatchInFull := by
  refine ⟨fun s f rest hst hf hp hrx h1 h2 => ?_, fun i s t h => ⟨fun ⟨hs, ht, he⟩ => ?_, fun hraised => ?_⟩⟩
  · have hr := receiveFrame_whole s f rest hf hrx h1 h2
    have hreject : ¬ verifyFrame f = true := (verifyFrame_iff f).not.2 hp
    simp only [if_neg hreject] at hr
    exact exec_recv_raises hst hr
  · exact eq_recv_of_checksumMismatch h hs ht he
  · obtain ⟨d, hr⟩ : ∃ d, receiveFrame s = (.error .checksumMismatch, d) := by
      rcases hraised with ⟨hs, ht, he⟩ | ⟨rfl, hreply⟩
      · obtain ⟨rfl, hst⟩ := eq_recv_of_checksumMismatch h hs ht he
        exact he ▸ receiveFrame_of_recv_fatal hst h ht
      · exact receiveFrame_of_decode_raised h hreply
    exact receiveFrame_mismatch hr

/-! ### Errors do not nest (R195) -/

/-- A micro-operation asked for in an ST other than its own is refused (log 11). -/
theorem exec_micro_elsewhere {i : Instr} {st : St} {s : State} (hi : microOf st = some i) (hst : s.st ≠ st) :
    exec i s = .next s.refuse := by
  obtain ⟨hrecv, hisochk, hextract, hcollide, hfatalchk, hnext⟩ := microOperationRefusedElsewhere s
  exact match st, hi with
    | .roundSent, rfl => hrecv hst
    | .roundReceived, rfl => hisochk hst
    | .extractTags, rfl => hextract hst
    | .processCollisions, rfl => hcollide hst
    | .pushMasks, rfl => hfatalchk hst
    | .nextRound, rfl => hnext hst

/-- Settles O48: in Fatal every micro-operation is refused, and no other operation but START may write ST, ERR or ISOCODE
(R39). -/
theorem errorsDoNotNest : Obligations.ErrorsDoNotNest := by
  refine ⟨fun i s t hst hstart h => ?_, fun s hst hin => ?_⟩
  · by_cases hmicro : ∃ st, microOf st = some i
    · obtain ⟨st, hi⟩ := hmicro
      have hne : s.st ≠ st := by rintro rfl; rw [hst] at hi; cases hi
      cases (exec_micro_elsewhere hi hne).symm.trans h
      exact ⟨hst, rfl, rfl⟩
    · have hne (st j) (hj : microOf st = some j) : i ≠ j := fun hij => hmicro ⟨st, hij ▸ hj⟩
      have hrecv := hne .roundSent _ rfl
      have hisochk := hne .roundReceived _ rfl
      have hextract := hne .extractTags _ rfl
      have hcollide := hne .processCollisions _ rfl
      have hfatalchk := hne .pushMasks _ rfl
      have hnext := hne .nextRound _ rfl
      obtain ⟨hst', -, -, -, -, -, herr, hisocode, -⟩ := accessTableFrames i s t h
      exact ⟨(hst' hstart hrecv hisochk hextract hcollide hfatalchk hnext).trans hst,
        herr hstart hrecv hisochk hextract hfatalchk hnext, hisocode hstart hisochk⟩
  · rw [step_of_microOf_none (turn_sequencer (.inl hin)) (by rw [hst]; rfl), consume_of_inputs_eq_nil hin]

/-! ### Where the model stops by name (logs 10 and 14) -/

/-- A bench's request for a word outside R100 stops the model with that word: no operation encodes to it (R109). -/
theorem step_bench_noOperation {s : State} {r : Request} {rest : List Input} (hin : s.inputs = .bench r :: rest)
    (h : ∀ i, (encode i).opw ≠ r.opw) : step s = .refused (.noOperation r.opw) :=
  step_of_decode_eq_error (turn_bench hin) (decode_of_rowOf_eq_none (rowOf_eq_none_of_forall_encode h))

/-- No request can be built of a CUR that is no mask. -/
theorem exec_sendreq_faults {s : State} (h : s.curMask.shaped = false) : exec .sendreq s = .fault .unitRefusedInside := by
  simp only [exec, execSendreq, sendRequest_none s h]

/-- NEXT, not cancelled, finds no pending mask. -/
theorem exec_next_faults {s : State} (hst : s.st = .nextRound) (hc : s.cancelReq = false) (hstk : s.stk = []) :
    exec .next s = .fault .unitRefusedInside := by
  simp only [exec, execNext, if_pos hst, if_neg (Bool.eq_false_iff.1 hc), popMask_nil s hstk]

/-- The mask of the first colliding slot cannot be derived or not be pushed. -/
theorem exec_collide_faults {s : State} (hst : s.st = .processCollisions) (hcoll : s.coll ≠ 0)
    (h : s.curMask.wellFormed = false ∨ 60 < s.cur.len.toNat ∨ 256 ≤ s.stk.length) :
    exec .collide s = .fault .unitRefusedInside := by
  obtain ⟨slot, slots, hscan⟩ := List.exists_cons_of_ne_nil ((cscan_eq_nil_iff s.coll).not.2 hcoll)
  simp only [exec, execCollide, if_pos hst, hscan, pushDerived_none s.curMask slot slots s h]

/-- Settles O24: the bench's word has no row, and a unit refuses inside each of the three operations. -/
theorem stopsByName : Obligations.StopsByName :=
  fun _ => ⟨fun _ _ => step_bench_noOperation, exec_sendreq_faults, exec_next_faults, exec_collide_faults⟩

end Sys2Proof.Machine

/-! PROOF. Reset and hazards (70_reset_and_hazards.md): hardware reset in any state (R210), one round in flight (R213), and
that no step of a session reads a register that holds an unspecified value (R218). -/

namespace Sys2Proof.Machine

/-! ### Hardware reset (R210) -/

/-- Settles O7: the reset input is one step, and what it leaves is `hardReset`. -/
theorem hardwareResetInAnyState : Obligations.HardwareResetInAnyState := by
  intro s rest hin
  exact ⟨_, step_hwReset hin, rfl, rfl, rfl, rfl, rfl, rfl, rfl, rfl, rfl, rfl, rfl, rfl, rfl, rfl,
    by rw [hardReset_inputs, consume_inputs, hin, List.tail_cons]⟩

/-! ### One round in flight (R213) -/

/-- Without a call of the Transport, a response that is awaited stays awaited. -/
theorem State.OneInFlight.of_link_eq {s t : State} (h : s.OneInFlight) (hl : t.link = s.link)
    (hst : s.st = .roundSent → t.st = .roundSent) : t.OneInFlight := by
  obtain ⟨hchain, hlast⟩ := h
  rw [State.OneInFlight, hl]
  exact ⟨hchain, fun e he hw => hst (hlast e he hw)⟩

/-- A request may be written where no response is awaited: the last call is a read. -/
theorem State.OneInFlight.write {s t : State} (h : s.OneInFlight) (hst : s.st ≠ .roundSent) {f : List Byte}
    (hl : t.link = s.link ++ [.write f]) (ht : t.st = .roundSent) : t.OneInFlight := by
  obtain ⟨hchain, hlast⟩ := h
  rw [State.OneInFlight, hl]
  refine ⟨List.isChain_append.2 ⟨hchain, List.isChain_singleton _, fun a ha _ _ hw => ?_⟩, fun _ _ _ => ht⟩
  exact hst (hlast a ha hw.1)

/-- After reads no response is awaited. -/
theorem State.OneInFlight.reads {s t : State} (h : s.OneInFlight) {reads : List LinkEvent}
    (hreads : ∀ e ∈ reads, e.isWrite = false) (hne : reads ≠ []) (hl : t.link = s.link ++ reads) : t.OneInFlight := by
  obtain ⟨hchain, -⟩ := h
  rw [State.OneInFlight, hl]
  refine ⟨List.isChain_append.2 ⟨hchain, ?_, fun _ _ e he hw => ?_⟩, fun e he hw => ?_⟩
  · exact (List.pairwise_of_forall_mem_list fun _ _ e he hw => by simp [hreads e he] at hw).isChain
  · simp [hreads e (List.mem_of_mem_head? he)] at hw
  · rw [List.getLast?_append_of_ne_nil _ hne] at he
    simp [hreads e (List.mem_of_getLast? he)] at hw

/-- No operation but START, RECV, NEXT, SENDREQ and DECODE calls the Transport (20_memory.md R61, R62). -/
theorem link_eq_of_exec {i : Instr} {s t : State} (h : exec i s = .next t) (hstart : i ≠ .start) (hrecv : i ≠ .recv)
    (hnext : i ≠ .next) (hsendreq : i ≠ .sendreq) (hdecode : i ≠ .decode) : t.link = s.link := by
  cases i with
  | start => exact absurd rfl hstart
  | recv => exact absurd rfl hrecv
  | next => exact absurd rfl hnext
  | sendreq => exact absurd rfl hsendreq
  | decode => exact absurd rfl hdecode
  | cancel | clear => cases h; rfl
  | isochk => rcases isochk_cases h with ⟨-, rfl⟩ | ⟨-, ⟨-, -, rfl⟩ | ⟨-, rfl⟩⟩ <;> rfl
  | extract => rcases extract_cases h with ⟨-, rfl⟩ | ⟨-, ⟨-, rfl⟩ | ⟨-, -, rfl⟩ | ⟨-, _, _, _, -, -, rfl⟩⟩ <;> rfl
  | collide => rcases collide_cases h with ⟨-, rfl⟩ | ⟨-, _, -, -, -, rfl⟩ <;> rfl
  | fatalchk => rcases fatalchk_cases h with ⟨-, rfl⟩ | ⟨-, ⟨-, -, rfl⟩ | ⟨-, -, rfl⟩ | ⟨-, -, rfl⟩⟩ <;> rfl
  | push => rcases push_cases h with rfl | ⟨-, -, rfl⟩ <;> rfl
  | pop => rcases pop_cases h with ⟨-, rfl⟩ | ⟨_, _, -, rfl⟩ <;> rfl
  | nop | csum | verify | fields | encode | buildreq | derive | tagparse | isomap | vscan | cscan =>
    obtain ⟨r, rfl⟩ := exec_pure_next h rfl
    rfl

theorem start_keeps_oneInFlight {s t : State} (h : s.OneInFlight) (hx : exec .start s = .next t) : t.OneInFlight := by
  rcases start_cases hx with ⟨-, rfl⟩ | ⟨hb, rfl⟩
  · exact h.of_link_eq rfl id
  · have hst : s.st ≠ .roundSent := fun e => by rw [State.busy, e] at hb; cases hb
    exact h.write hst rfl rfl

theorem recv_keeps_oneInFlight {s t : State} (h : s.OneInFlight) (hx : exec .recv s = .next t) : t.OneInFlight := by
  rcases recv_cases hx with ⟨-, rfl⟩ | ⟨-, ⟨f, _, _, -, -, -, rfl⟩ | ⟨_, _, _, reads, -, -, hreads, hne, rfl⟩⟩
  · exact h.of_link_eq rfl id
  · exact h.reads (reads := [.read 2 (f.take 2), .read (f.length - 2) (f.drop 2)]) (by simp [LinkEvent.isWrite]) nofun rfl
  · exact h.reads hreads hne rfl

theorem next_keeps_oneInFlight {s t : State} (h : s.OneInFlight) (hx : exec .next s = .next t) : t.OneInFlight := by
  rcases next_cases hx with ⟨-, rfl⟩ | ⟨hst, ⟨-, rfl⟩ | ⟨-, _, _, -, -, rfl⟩⟩
  · exact h.of_link_eq rfl id
  · exact h.of_link_eq rfl (by simp [hst])
  · exact h.write (by simp [hst]) rfl rfl

/-- The host's commands and the micro-operation of ST keep one round in flight. -/
theorem exec_keeps_oneInFlight {i : Instr} {s t : State} (h : s.OneInFlight)
    (hi : i = .nop ∨ i = .start ∨ i = .cancel ∨ microOf s.st = some i) (hx : exec i s = .next t) : t.OneInFlight := by
  rcases hi with rfl | rfl | rfl | hi
  · cases hx; exact h
  · exact start_keeps_oneInFlight h hx
  · cases hx; exact h.of_link_eq rfl id
  · cases hst : s.st with
    | roundSent => rw [hst] at hi; cases hi; exact recv_keeps_oneInFlight h hx
    | nextRound => rw [hst] at hi; cases hi; exact next_keeps_oneInFlight h hx
    | idle | done | fatal => rw [hst] at hi; cases hi
    | roundReceived | extractTags | processCollisions | pushMasks =>
      rw [hst] at hi
      cases hi
      exact h.of_link_eq (link_eq_of_exec hx nofun nofun nofun nofun nofun) (by simp [hst])

/-- Settles O59: a step without a reset is a wait, a host command or ST's micro-operation, or a refusal. -/
theorem oneRoundInFlight : Obligations.OneRoundInFlight := by
  intro s t hin h hstep
  have hconsume : s.consume.OneInFlight := h.of_link_eq rfl id
  rcases step_outside fun x hx => (hin x hx).1 with ⟨⟨rest, hr⟩, -⟩ | ⟨-, e⟩ | ⟨i, hi, e⟩ | e
  · exact absurd rfl (hin .hwReset (by simp [hr])).2
  · cases e.symm.trans hstep
    exact hconsume
  · exact exec_keeps_oneInFlight hconsume hi (e.symm.trans hstep)
  · cases e.symm.trans hstep
    exact hconsume.of_link_eq rfl id

/-! ### The specified part of a state (R218)

A step of a session and the same step from the specified part of the state end in the same specified part. So the specified
part before a step determines the one after it. -/

@[simp] theorem specified_tagcnt (s : State) : s.specified.tagcnt = s.tagcnt := rfl

theorem specified_cur {s : State} (h : s.st ≠ .idle) : s.specified.cur = s.cur := by simp [State.specified, h]
theorem specified_coll {s : State} (h : s.st.holdsFlags = true) : s.specified.coll = s.coll := by simp [State.specified, h]
theorem specified_f {s : State} (h : s.st.holdsFrame = true) : s.specified.f = s.f := by simp [State.specified, h]
theorem specified_rxlen {s : State} (h : s.st.holdsFrame = true) : s.specified.rxlen = s.rxlen := by
  simp [State.specified, h]
theorem specified_rxb {s : State} (h : s.st.holdsFrame = true) : s.specified.rxb = Buf.upTo s.rxb s.rxlen.toNat := by
  simp [State.specified, h]

/-! #### Buffers -/

/-- A length in a register fits a buffer. -/
theorem toNat_le_255 (n : Byte) : n.toNat ≤ 255 := Nat.le_of_lt_succ n.isLt

/-- The first n bytes of a buffer are what is kept of it. -/
theorem upTo_take (b : Buf) (n : Byte) : (Buf.upTo b n.toNat).toList.take n.toNat = b.toList.take n.toNat := by
  have hlen : (b.toList.take n.toNat).length = n.toNat := by simp [toNat_le_255]
  have htake := overlay_take (b.toList.take n.toNat) (Vector.replicate 255 0) (hlen.le.trans (toNat_le_255 n))
  rwa [hlen] at htake

/-- A buffer cut off twice at one length is cut off once. -/
theorem upTo_upTo (b : Buf) (n : Byte) : Buf.upTo (Buf.upTo b n.toNat) n.toNat = Buf.upTo b n.toNat := by
  rw [Buf.upTo, upTo_take, Buf.upTo]

/-- Of a frame written over a buffer, a part of the frame does not depend on the buffer. -/
theorem upTo_overlay (f : List Byte) (b b' : Buf) {n : Byte} (h : n.toNat ≤ f.length) :
    Buf.upTo (overlay f b) n.toNat = Buf.upTo (overlay f b') n.toNat := by
  have htake (c : Buf) : (overlay f c).toList.take n.toNat = f.take n.toNat := by
    rw [overlay_toList, List.take_append_of_le_length (by simp [h, toNat_le_255]), List.take_take,
      Nat.min_eq_left (toNat_le_255 n)]
  rw [Buf.upTo, htake, Buf.upTo, htake]

/-- A byte in the part that is kept. -/
theorem upTo_getElem (b : Buf) {n i : Nat} (hi : i < n) (h : i < 255) : (Buf.upTo b n)[i] = b[i] := by
  rw [Buf.upTo, overlay_getElem _ _ _ h, List.getElem?_take_of_lt hi]
  simp [h]

/-! #### Writes that reveal nothing unspecified -/

/-- Where the flag fields are those of the current round, so is the frame. -/
theorem St.holdsFrame_of_holdsFlags {st : St} (h : st.holdsFlags = true) : st.holdsFrame = true := by
  revert h
  cases st <;> decide

/-- Moving to an ST in which no more is specified. -/
theorem specified_move {s : State} {st : St} (hidle : s.st = .idle → st = .idle)
    (hframe : st.holdsFrame = true → s.st.holdsFrame = true) (hflags : st.holdsFlags = true → s.st.holdsFlags = true) :
    ({ s.specified with st := st } : State).specified = ({ s with st := st } : State).specified := by
  by_cases hst : st = .idle
  · simp [State.specified, hst, St.holdsFrame, St.holdsFlags]
  have hs : s.st ≠ .idle := fun h => hst (hidle h)
  cases hg : st.holdsFlags with
  | true =>
    have hf := St.holdsFrame_of_holdsFlags hg
    simp [State.specified, hst, hs, hf, hframe hf, hg, hflags hg, upTo_upTo]
  | false =>
    cases hf : st.holdsFrame with
    | true => simp [State.specified, hst, hs, hf, hframe hf, hg, upTo_upTo]
    | false => simp [State.specified, hst, hs, hf, hg, upTo_upTo]

/-- Sending a frame, with any CUR. -/
theorem specified_send (s : State) (cur : MaskReg) {f : List Byte} {n : Byte} (h : n.toNat ≤ f.length) :
    ({ s.specified with cur := cur, txb := overlay f s.specified.txb, txlen := n, st := .roundSent } : State).specified =
      ({ s with cur := cur, txb := overlay f s.txb, txlen := n, st := .roundSent } : State).specified := by
  simp [State.specified, St.holdsFrame, St.holdsFlags, upTo_overlay f _ s.txb h]

/-- Latching a frame, whatever bytes RXB holds beyond it. -/
theorem specified_latch {s : State} (hst : s.st ≠ .idle) (f : List Byte) (r : FieldRegs) :
    ({ s.specified.latchRx f r with st := .roundReceived } : State).specified =
      ({ s.latchRx f r with st := .roundReceived } : State).specified := by
  have hlen : (BitVec.ofNat 8 f.length).toNat ≤ f.length := by simp [Nat.mod_le]
  have hrx := upTo_overlay f (freeBuf 0) (freeBuf s.draws) hlen
  simpa [State.specified, State.latchRx, hst, St.holdsFrame, St.holdsFlags, upTo_upTo] using hrx

/-- Assembling both flag fields from a frame that is held. -/
theorem specified_flags {s : State} (hst : s.st = .extractTags) (v c : BitVec 16) :
    ({ s.specified with valid := v, coll := c, st := .processCollisions } : State).specified =
      ({ s with valid := v, coll := c, st := .processCollisions } : State).specified := by
  simp [State.specified, hst, St.holdsFrame, St.holdsFlags, upTo_upTo]

theorem specified_specified (s : State) : s.specified.specified = s.specified := specified_move id id id

/-- Moving on to an ST in which no more is specified, with a report. -/
theorem mapNext_specified_move {s : State} {st st' : St} (r : Reply) (hst : s.st = st) (hidle : st ≠ .idle)
    (hframe : st'.holdsFrame = true → st.holdsFrame = true) (hflags : st'.holdsFlags = true → st.holdsFlags = true) :
    mapNext State.specified (.next { s.specified with st := st', reply := r }) =
      mapNext State.specified (.next { s with st := st', reply := r }) := by
  subst hst
  exact congrArg (fun w : State => Host.Outcome.next ({ w with reply := r } : State))
    (specified_move (fun h => absurd h hidle) hframe hflags)

/-- Raising an error in a running session. -/
theorem mapNext_specified_raise {s : State} (e : Err) (hidle : s.st ≠ .idle) :
    mapNext State.specified (.next (s.specified.raise e)) = mapNext State.specified (.next (s.raise e)) :=
  congrArg (fun w : State => Host.Outcome.next ({ w with err := e, reply := .raised e } : State))
    (specified_move (st := .fatal) (fun h => absurd h hidle) nofun nofun)

/-! #### The frame that is held -/

theorem specified_heldFrame {s : State} (h : s.st.holdsFrame = true) : s.specified.heldFrame = s.heldFrame := by
  rw [State.heldFrame, specified_rxb h, specified_rxlen h, upTo_take, State.heldFrame]

theorem State.FrameHeld.specified {s : State} (h : s.FrameHeld) (hst : s.st.holdsFrame = true) : s.specified.FrameHeld := by
  rwa [State.FrameHeld, specified_heldFrame hst, specified_rxlen hst, specified_f hst]

/-- The length byte in the field registers counts the frame that is held. -/
theorem State.FrameHeld.len {s : State} (h : s.FrameHeld) : s.f.len.toNat = s.rxlen.toNat := by
  obtain ⟨hf, -, hlen, hregs⟩ := h
  rw [hregs, ← hlen]
  exact hf.lenByte

theorem State.FrameHeld.payload {s : State} (h : s.FrameHeld) : s.payload = (fieldsOf s.heldFrame).payload := by
  obtain ⟨hf, -, hlen, hregs⟩ := h
  exact payload_of_held hf (by rw [hlen, State.heldFrame]) hregs

/-- PAYLOAD lies in the part of RXB that is specified. -/
theorem specified_payload {s : State} (h : s.FrameHeld) (hst : s.st.holdsFrame = true) :
    s.specified.payload = s.payload := by
  rw [(h.specified hst).payload, specified_heldFrame hst, h.payload]

/-- An error frame, by its length, is long enough to hold the ISO error code (00_scope.md R10). -/
theorem specified_isoCode {s : State} (h : s.FrameHeld) (hst : s.st.holdsFrame = true) (hp : s.params.ok = true)
    (hlen : s.f.len = s.params.errFrameLen) :
    s.specified.rxb[s.specified.params.errCodeOff] = s.rxb[s.params.errCodeOff] := by
  have hoff : s.params.errCodeOff.val + 3 ≤ s.params.errFrameLen.toNat := by
    simp only [Config.Params.ok, Bool.and_eq_true, decide_eq_true_iff] at hp
    exact hp.2
  have hrx := h.len
  rw [hlen] at hrx
  rw [specified_rxb hst]
  exact upTo_getElem s.rxb (by omega) s.params.errCodeOff.isLt

/-! #### Operation by operation

The equations of the operation, in s and in `s.specified`, give both next states; one of the writes above relates them. -/

/-- A reception reads the streams only: from the specified part it ends alike, with the same frame or the same error. -/
theorem receiveFrame_specified (s : State) :
    (∃ (e : Err) (u : State), receiveFrame s = (.error e, u.forgetRx) ∧
      receiveFrame s.specified = (.error e, u.specified.forgetRx) ∧ u.st = s.st) ∨
    ∃ (f : List Byte) (u : State), receiveFrame s = (.ok (fieldsOf f), u.latchRx f (fieldsOf f).regs) ∧
      receiveFrame s.specified = (.ok (fieldsOf f), u.specified.latchRx f (fieldsOf f).regs) ∧ u.st = s.st := by
  have hread (n : Nat) (u : State) : memRead n u.specified = ((memRead n u).1, (memRead n u).2.specified) := rfl
  simp only [receiveFrame, hread]
  split_ifs
  · exact .inl ⟨_, _, rfl, rfl, rfl⟩
  · exact .inl ⟨_, _, rfl, rfl, rfl⟩
  · exact .inl ⟨_, _, rfl, rfl, rfl⟩
  · exact .inr ⟨_, _, rfl, rfl, rfl⟩
  · exact .inl ⟨_, _, rfl, rfl, rfl⟩

theorem recv_specified {s : State} (hst : s.st = .roundSent) :
    mapNext State.specified (exec .recv s.specified) = mapNext State.specified (exec .recv s) := by
  rcases receiveFrame_specified s with ⟨e, u, hr, hr', hu⟩ | ⟨f, u, hr, hr', hu⟩
  · rw [exec_recv_of_error hst hr, exec_recv_of_error (s := s.specified) hst hr']
    exact mapNext_specified_raise e (by rw [hu, hst]; nofun)
  · rw [exec_recv_of_ok hst hr, exec_recv_of_ok (s := s.specified) hst hr']
    exact congrArg (fun w : State => Host.Outcome.next ({ w with reply := .none } : State))
      (specified_latch (by rw [hu, hst]; nofun) f _)

theorem isochk_specified {s : State} (h : s.SessionOk) (hst : s.st = .roundReceived) :
    mapNext State.specified (exec .isochk s.specified) = mapNext State.specified (exec .isochk s) := by
  have hframe : s.st.holdsFrame = true := by rw [hst]; rfl
  have hcode := specified_isoCode (h.held hframe) hframe h.ok.params
  have hiff : (s.specified.f.len = s.specified.params.errFrameLen ∧ s.specified.rxb[s.specified.params.errCodeOff] ≠ 0) ↔
      s.f.len = s.params.errFrameLen ∧ s.rxb[s.params.errCodeOff] ≠ 0 := by
    rw [specified_f hframe]
    exact and_congr_right fun hlen => by rw [hcode hlen]
  by_cases hiso : s.f.len = s.params.errFrameLen ∧ s.rxb[s.params.errCodeOff] ≠ 0
  · rw [exec_isochk_isoError hst hiso, exec_isochk_isoError (s := s.specified) hst (hiff.2 hiso), hcode hiso.1]
    exact mapNext_specified_raise (s := { s with isocode := s.rxb[s.params.errCodeOff] }) .isoError (by simp [hst])
  · rw [exec_isochk_passes hst hiso, exec_isochk_passes (s := s.specified) hst (hiff.not.2 hiso)]
    exact mapNext_specified_move .none hst nofun (fun _ => rfl) nofun

theorem extract_specified {s : State} (h : s.SessionOk) (hst : s.st = .extractTags) :
    mapNext State.specified (exec .extract s.specified) = mapNext State.specified (exec .extract s) := by
  have hframe : s.st.holdsFrame = true := by rw [hst]; rfl
  have hidle : s.st ≠ .idle := by rw [hst]; nofun
  have hst' : s.specified.st = .extractTags := hst
  have hplen : s.specified.f.plen = s.f.plen := congrArg FieldRegs.plen (specified_f hframe)
  simp only [exec, execExtract, if_pos hst, if_pos hst', specified_payload (h.held hframe) hframe, hplen,
    specified_tagcnt]
  split_ifs
  · exact mapNext_specified_raise _ hidle
  · exact mapNext_specified_raise _ hidle
  · exact mapNext_specified_raise _ hidle
  · generalize tagRecords s.payload _ = recs
    generalize s.tagcnt + BitVec.ofNat 32 _ = n
    exact congrArg (fun w : State => Host.Outcome.next ({ w with
      tags := s.tags ++ recs, tagcnt := n, tagOut := s.tagOut ++ recs, reply := .none } : State)) (specified_flags hst _ _)

theorem collide_specified {s : State} (hst : s.st = .processCollisions) :
    mapNext State.specified (exec .collide s.specified) = mapNext State.specified (exec .collide s) := by
  have hpush (m : Mask) (u : State) : pushMask m u.specified = (pushMask m u).map State.specified := by
    simp only [pushMask, apply_ite (Option.map _)]
    rfl
  have hst' : s.specified.st = .processCollisions := hst
  have hmask : s.specified.curMask = s.curMask := congrArg maskOfReg (specified_cur (by rw [hst]; nofun))
  have hcoll : s.specified.coll = s.coll := specified_coll (by rw [hst]; rfl)
  simp only [exec, execCollide, if_pos hst, if_pos hst', hmask, hcoll, pushDerived_map hpush]
  cases hp : pushDerived s.curMask (cscan s.coll) s with
  | none => rfl
  | some u =>
    obtain ⟨new, rfl, -⟩ := pushDerived_stk hp
    exact mapNext_specified_move (s := { s with stk := s.stk ++ new }) .none hst nofun (fun _ => rfl) (fun _ => rfl)

theorem fatalchk_specified {s : State} (hst : s.st = .pushMasks) :
    mapNext State.specified (exec .fatalchk s.specified) = mapNext State.specified (exec .fatalchk s) := by
  have hidle : s.st ≠ .idle := by rw [hst]; nofun
  have hiff : (s.specified.coll ≠ 0 ∧ s.specified.cur.len = 60) ↔ s.coll ≠ 0 ∧ s.cur.len = 60 := by
    rw [specified_coll (by rw [hst]; rfl), specified_cur hidle]
  by_cases hcheck : s.coll ≠ 0 ∧ s.cur.len = 60
  · rw [exec_fatalchk_raises hst hcheck, exec_fatalchk_raises (s := s.specified) hst (hiff.2 hcheck)]
    exact mapNext_specified_raise _ hidle
  by_cases hstk : s.stk = []
  · rw [exec_fatalchk_done hst hcheck hstk, exec_fatalchk_done (s := s.specified) hst (hiff.not.2 hcheck) hstk]
    exact mapNext_specified_move .none hst nofun (fun _ => rfl) (fun _ => rfl)
  · rw [exec_fatalchk_nextRound hst hcheck hstk,
      exec_fatalchk_nextRound (s := s.specified) hst (hiff.not.2 hcheck) hstk]
    exact mapNext_specified_move .none hst nofun (fun _ => rfl) (fun _ => rfl)

/-- The request for a mask has 12 bytes and those of the mask (30_encoding.md R83). -/
theorem requestOf_length (p : Config.Params) (m : Mask) : (requestOf p m).length = 12 + m.bytes.length := by
  simp only [requestOf, frameOf_length, List.length_append, List.length_cons, List.length_nil]
  omega

theorem next_specified {s : State} (h : s.SessionOk) (hst : s.st = .nextRound) :
    mapNext State.specified (exec .next s.specified) = mapNext State.specified (exec .next s) := by
  have hidle : s.st ≠ .idle := by rw [hst]; nofun
  cases hc : s.cancelReq with
  | true =>
    rw [exec_next_cancelled hst hc, exec_next_cancelled (s := s.specified) hst hc]
    exact mapNext_specified_raise _ hidle
  | false =>
    obtain ⟨-, hne, -⟩ := h.treeNext hst
    obtain ⟨rest, r, hstk⟩ := s.stk.eq_nil_or_concat'.resolve_left hne
    have hr := h.ok.stack r (by simp [hstk])
    obtain ⟨-, -, hbytes⟩ := (shaped_iff _).1 ((wellFormed_iff _).1 ((ok_iff r).1 hr).1).1
    have hlen : (BitVec.ofNat 8 (12 + (r.len.toNat + 7) / 8)).toNat ≤ (requestOf s.params (maskOfReg r)).length := by
      rw [requestOf_length, hbytes, BitVec.toNat_ofNat]
      exact Nat.mod_le _ _
    rw [exec_next_pops hst hc hstk hr, exec_next_pops (s := s.specified) hst hc hstk hr]
    exact congrArg (fun w : State => Host.Outcome.next ({ w with
      stk := rest, link := s.link ++ [.write (requestOf s.params (maskOfReg r))], rounds := s.rounds + 1
      reply := .none } : State)) (specified_send s r hlen)

theorem start_specified (s : State) :
    mapNext State.specified (exec .start s.specified) = mapNext State.specified (exec .start s) := by
  cases hb : s.busy with
  | true =>
    rw [exec_start_busy hb, exec_start_busy (s := s.specified) hb]
    exact congrArg (fun w : State => Host.Outcome.next w.refuse) (specified_specified s)
  | false =>
    have hlen : (12 : Byte).toNat ≤ (requestOf s.params ⟨0, []⟩).length := by rw [requestOf_length]; decide
    rw [exec_start hb, exec_start (s := s.specified) hb]
    exact congrArg (fun w : State => Host.Outcome.next ({ w with
      stk := [], tags := [], tagcnt := 0, err := .none, isocode := 0, cancelReq := false, rounds := 1
      link := s.link ++ [.write (requestOf s.params ⟨0, []⟩)], reply := .none } : State)) (specified_send s .empty hlen)

/-- The micro-operation of ST reads nothing that is unspecified in that ST. -/
theorem micro_specified {i : Instr} {s : State} (h : s.SessionOk) (hi : microOf s.st = some i) :
    mapNext State.specified (exec i s.specified) = mapNext State.specified (exec i s) := by
  cases hst : s.st <;> rw [hst] at hi <;> cases hi
  case roundSent => exact recv_specified hst
  case roundReceived => exact isochk_specified h hst
  case extractTags => exact extract_specified h hst
  case processCollisions => exact collide_specified hst
  case pushMasks => exact fatalchk_specified hst
  case nextRound => exact next_specified h hst

/-- Nor do the host's commands. -/
theorem exec_specified {i : Instr} {s : State} (h : s.SessionOk)
    (hi : i = .nop ∨ i = .start ∨ i = .cancel ∨ microOf s.st = some i) :
    mapNext State.specified (exec i s.specified) = mapNext State.specified (exec i s) := by
  rcases hi with rfl | rfl | rfl | hi
  · exact congrArg Host.Outcome.next (specified_specified s)
  · exact start_specified s
  · exact congrArg (fun w : State => Host.Outcome.next ({ w with cancelReq := true, reply := .none } : State))
      (specified_specified s)
  · exact micro_specified h hi

/-! #### The step -/

/-- The host's codes that decode are those of its three commands (30_encoding.md R96, R109). -/
theorem decode_hostRequest {c : BitVec 2} {i : Instr} (h : decode (hostRequest c) = .ok i) :
    i = .nop ∨ i = .start ∨ i = .cancel := by
  have hc : c = 0 ∨ c = 1 ∨ c = 2 ∨ c = 3 := by clear h; revert c; decide
  rcases hc with rfl | rfl | rfl | rfl <;> cases h
  · exact .inl rfl
  · exact .inr (.inl rfl)
  · exact .inr (.inr rfl)

/-- The word of ST decodes to the micro-operation of ST (30_encoding.md R97). -/
theorem microOf_of_sequencerTurn {s : State} {byHost : Bool} {r : Request} {i : Instr}
    (ht : s.sequencerTurn = .perform byHost r) (hd : decode r = .ok i) : microOf s.st = some i := by
  unfold State.sequencerTurn State.microRequest at ht
  cases hst : s.st <;> rw [hst] at ht <;> cases ht <;> cases hd <;> rfl

/-- Without a test bench a step performs a command of the host or the micro-operation of ST. -/
theorem instr_of_turn {s : State} (ho : ∀ x ∈ s.inputs, x.fromOutside = true) {byHost : Bool} {r : Request} {i : Instr}
    (ht : s.turn = .perform byHost r) (hd : decode r = .ok i) :
    i = .nop ∨ i = .start ∨ i = .cancel ∨ microOf s.st = some i := by
  cases hin : s.inputs with
  | nil => exact .inr (.inr (.inr (microOf_of_sequencerTurn ((turn_sequencer (.inl hin)).symm.trans ht) hd)))
  | cons x rest =>
    cases x with
    | sequencer =>
      exact .inr (.inr (.inr (microOf_of_sequencerTurn ((turn_sequencer (.inr ⟨rest, hin⟩)).symm.trans ht) hd)))
    | host c =>
      cases (turn_host hin).symm.trans ht
      exact (decode_hostRequest hd).imp_right (Or.imp_right .inl)
    | bench r' => exact absurd (ho (.bench r') (by simp [hin])) nofun
    | hwReset => rw [State.turn, hin] at ht; cases ht

theorem step_of_turn_reset {s : State} (ht : s.turn = .reset) : step s = .next (hardReset s.consume) := by
  simp only [step, ht]

theorem step_of_turn_wait {s : State} (ht : s.turn = .wait) : step s = .next s.consume := by
  simp only [step, ht]

/-- A step of a session and the step from the specified part agree on what is specified after it. -/
theorem step_specified {s : State} (h : s.SessionOk) :
    mapNext State.specified (step s.specified) = mapNext State.specified (step s) := by
  cases ht : s.turn with
  | reset =>
    rw [step_of_turn_reset ht, step_of_turn_reset (s := s.specified) ht]
    rfl
  | wait =>
    rw [step_of_turn_wait ht, step_of_turn_wait (s := s.specified) ht]
    exact congrArg Host.Outcome.next (specified_specified s.consume)
  | perform byHost r =>
    cases hd : decode r with
    | ok i =>
      rw [step_of_decode_eq_ok ht hd, step_of_decode_eq_ok (s := s.specified) ht hd]
      exact exec_specified h.consume (instr_of_turn h.outside ht hd)
    | error e =>
      rw [step_of_decode_eq_error ht hd, step_of_decode_eq_error (s := s.specified) ht hd]
      cases byHost with
      | true => exact congrArg (fun w : State => Host.Outcome.next w.refuse) (specified_specified s.consume)
      | false => cases e <;> rfl

/-- Settles O58: both steps end as the step from the specified part ends, which is the same for both. -/
theorem unspecifiedNeverRead : Obligations.UnspecifiedNeverRead := by
  intro s s' h h' heq
  obtain ⟨t, ht⟩ := sessionNeverStops s h
  obtain ⟨t', ht'⟩ := sessionNeverStops s' h'
  have hnext : mapNext State.specified (.next t) = mapNext State.specified (.next t') := by
    rw [← ht, ← ht', ← step_specified h, heq, step_specified h']
  exact ⟨t, t', ht, ht', Host.Outcome.next.inj hnext⟩

end Sys2Proof.Machine
